-- ==== Sys2Proof/Word.lean ====
section
/-! DEFINITION. Words, and the small vocabularies of names the spec uses for lines, pads, samples and events
(00_scope R10, R11, R12; 10_state R26, R40; 20_memory R60). -/

namespace Sys2Proof

/-- A 32-bit word: `CMD`, `ARG`, `rsp_data` (R80, R82). -/
abbrev Word := BitVec 32

/-- An 8-bit field: a colour channel, a single-wire byte, a line number (R29, R87). -/
abbrev Byte := BitVec 8

/-- A 1-bit register or level, 0 low and 1 high (R26). -/
abbrev Bit := BitVec 1

/-- Direction of a line, `Input` = 0 and `Output` = 1 (R26). -/
inductive Dir where
  | input
  | output
  deriving DecidableEq, Repr

/-- Pull of a line: `None` = 0, `PullUp` = 1, `PullDown` = 2. Code 3, open-drain, is reserved and never held
(R26; 90_conflicts C1), so it is no value of this type. -/
inductive Pull where
  | none
  | pullUp
  | pullDown
  deriving DecidableEq, Repr

/-- Pad state: released, driven low, driven high (R11, R16). -/
inductive Pad where
  | z
  | l
  | h
  deriving DecidableEq, Repr

/-- What the environment says of a line at a sample: no external device drives it, one holds it low, one drives
it high (R12). -/
inductive Ext where
  | z
  | l
  | h
  deriving DecidableEq, Repr, Inhabited

/-- The environment's whole answer to one sample: `ext`, and the free bit `draw` for a floating line (R12, R136). -/
structure EnvAnswer where
  ext : Ext
  draw : Bit
  deriving DecidableEq, Repr, Inhabited

/-- One event of the log `S.log` (R40). -/
inductive Event where
  /-- from this instant the line has this pad state -/
  | drive (line : Nat) (pad : Pad)
  /-- from this instant the line has this pull -/
  | pull (line : Nat) (p : Pull)
  /-- `d > 0` nanoseconds pass -/
  | wait (d : Nat)
  /-- the line was sampled: the environment said `ext`, the core read `v` -/
  | sample (line : Nat) (ext : Ext) (v : Bit)
  deriving DecidableEq, Repr

/-- One entry of the pixel memory: three 8-bit unsigned channels (R29, R60). -/
structure Triplet where
  r : Byte
  g : Byte
  b : Byte
  deriving DecidableEq, Repr

end Sys2Proof
end

