-- ==== Sys2Proof/Config.lean ====
section
/-! DEFINITION. The configuration record `P` (00_scope R6), its constraints and defaults, the two fixed line
bindings, and the environment's two uninterpreted functions (00_scope R12; notes/assumptions 1 and 4). -/

namespace Sys2Proof.Config

/-- The configuration record `P` of R6. All times are nanoseconds. Every field is OPEN: the state carries one such
record (`Machine.State.cfg`), no step writes it, and no definition depends on a default. -/
structure Params where
  /-- `TICK_BITS`, written `W`: width of the tick counters and of every Tick -/
  tickBits : Nat
  /-- `NUM_LINES` -/
  numLines : Nat
  /-- `T_RSTL`: reset, low time -/
  tRstl : Nat
  /-- `T_PDWAIT`: reset, wait from release to presence sample -/
  tPdwait : Nat
  /-- `T_RSTREC`: reset, recovery after the sample -/
  tRstrec : Nat
  /-- `T_W1L`: write slot, low time for a 1 -/
  tW1l : Nat
  /-- `T_W0L`: write slot, low time for a 0 -/
  tW0l : Nat
  /-- `T_WSLOT`: write slot, whole -/
  tWslot : Nat
  /-- `T_RINIT`: read slot, initiating low time -/
  tRinit : Nat
  /-- `T_RWAIT`: read slot, wait from release to sample -/
  tRwait : Nat
  /-- `T_RSLOT`: read slot, whole -/
  tRslot : Nat
  /-- `T0H`: pixel bit 0, high time -/
  t0h : Nat
  /-- `T0L`: pixel bit 0, low time -/
  t0l : Nat
  /-- `T1H`: pixel bit 1, high time -/
  t1h : Nat
  /-- `T1L`: pixel bit 1, low time -/
  t1l : Nat
  /-- `T_LATCH_MIN`: minimum latch gap -/
  tLatchMin : Nat
  /-- `T_LATCH`: latch gap actually held -/
  tLatch : Nat
  /-- `PX_MAX`: capacity of the pixel memory, in triplets -/
  pxMax : Nat
  /-- `MA_MAX`: capacity of the sample memory, in samples -/
  maMax : Nat
  /-- `MAX_DUTY`: top of the duty range of the caller's PWM -/
  maxDuty : Nat
  /-- `PERIOD_US`: one PWM period in microseconds -/
  periodUs : Nat
  deriving DecidableEq, Repr

/-- `LINE_OW`: the line the OneWireBus owns, fixed 0 (R6, R150). -/
def lineOw : Nat := 0

/-- `LINE_PX`: the line the PixelBus owns, fixed 1 (R6, R200). -/
def linePx : Nat := 1

/-- The constraints of the table of R6, row by row. -/
abbrev Params.valid (P : Params) : Prop :=
  (1 ≤ P.tickBits ∧ P.tickBits ≤ 32) ∧
  (2 ≤ P.numLines ∧ P.numLines ≤ 256) ∧
  (0 < P.tRstl ∧ 0 < P.tPdwait) ∧
  (0 < P.tW1l ∧ P.tW1l ≤ P.tWslot) ∧
  (P.tW1l < P.tW0l ∧ P.tW0l ≤ P.tWslot) ∧
  0 < P.tWslot ∧
  (0 < P.tRinit ∧ P.tRinit + P.tRwait ≤ P.tRslot ∧ 0 < P.tRslot) ∧
  (0 < P.t0h ∧ P.t0h < P.t0l ∧ P.t0h < 1000 ∧ P.t0l < 1000) ∧
  (P.t1l < P.t1h ∧ P.t1h < 1000 ∧ 0 < P.t1l) ∧
  (0 < P.tLatchMin ∧ P.tLatchMin ≤ P.tLatch) ∧
  P.pxMax ≤ 65535 ∧ P.maMax ≤ 65535 ∧
  (1 ≤ P.maxDuty ∧ P.maxDuty ≤ 2 ^ 31 - 1) ∧
  (1 ≤ P.periodUs ∧ P.periodUs ≤ 2 ^ 31 - 1)

/-- The default column of R6. DESIGN CHOICE, unsafe: only `State.reset` uses it (notes/assumptions/1.md). -/
def Params.default : Params where
  tickBits := 32
  numLines := 4
  tRstl := 480000
  tPdwait := 70000
  tRstrec := 410000
  tW1l := 1000
  tW0l := 60000
  tWslot := 60000
  tRinit := 2000
  tRwait := 8000
  tRslot := 50000
  t0h := 400
  t0l := 850
  t1h := 800
  t1l := 450
  tLatchMin := 50000
  tLatch := 50000
  pxMax := 256
  maMax := 64
  maxDuty := 1023
  periodUs := 20000

/-- The environment's answer to a sample that `State.answers` does not script: a free value that may depend on
which draw it is, on the whole log so far and on the line (R12). No body: nothing is known of it. -/
opaque oracleAnswer (draw : Nat) (log : List Event) (line : Nat) : EnvAnswer

/-- The length of the idle step that the environment takes when `State.inputs` scripts nothing: a free value
(R9, R12; U3). No body: nothing is known of it. -/
opaque oracleIdle (draw : Nat) : Nat

end Sys2Proof.Config
end

