-- ==== Sys2Proof/Syntax.lean ====
section
/-! DEFINITION. The 27 commands as syntax: one constructor per row of the opcode map (30_encoding R86), with the
operands of R87; the opcodes and the eleven formats by name (R83). -/

namespace Sys2Proof

/-- The eleven formats (R83). -/
inductive Format where
  | fZ | fT | fL | fB1 | fB8 | fN | fC | fCI | fS | fDI | fDR
  deriving DecidableEq, Repr

/-- The 27 opcodes by name (R86). -/
inductive Opcode where
  | nowMs | nowUs | elapsedMs | elapsedUs | tmStart | tmElapsed
  | dlSetDir | dlSetPull | dlWrite | dlRead
  | owReset | owWriteBit | owReadBit | owWriteByte | owReadByte
  | pxInit | pxSet | pxFill | pxWrite
  | svAngle | svPulse
  | dbInit | dbRead
  | maInit | maAdd | maAvg | maReset
  deriving DecidableEq, Repr

/-- A command with its operands (R86, R87). Tick operands (`since`, `now`) and signed operands (`x`) are kept as the
32-bit word `ARG`; how a meaning reads them is in `Machine/Operands.lean`. -/
inductive Instr where
  /-- NOW_MS, R110 -/
  | nowMs
  /-- NOW_US, R111 -/
  | nowUs
  /-- ELAPSED_MS since, R112 -/
  | elapsedMs (since : Word)
  /-- ELAPSED_US since, R113 -/
  | elapsedUs (since : Word)
  /-- TM_START, R114 -/
  | tmStart
  /-- TM_ELAPSED, R115 -/
  | tmElapsed
  /-- DL_SET_DIR line, dir, R130 -/
  | dlSetDir (line : Byte) (dir : Dir)
  /-- DL_SET_PULL line, pull, R131 -/
  | dlSetPull (line : Byte) (pull : Pull)
  /-- DL_WRITE line, level, R132 -/
  | dlWrite (line : Byte) (level : Bit)
  /-- DL_READ line, R133 -/
  | dlRead (line : Byte)
  /-- OW_RESET, R151 -/
  | owReset
  /-- OW_WRITE_BIT bit, R152 -/
  | owWriteBit (bit : Bit)
  /-- OW_READ_BIT, R153 -/
  | owReadBit
  /-- OW_WRITE_BYTE byte, R154 -/
  | owWriteByte (byte : Byte)
  /-- OW_READ_BYTE, R155 -/
  | owReadByte
  /-- PX_INIT n, R201 -/
  | pxInit (n : BitVec 16)
  /-- PX_SET index, r, g, b, R202 -/
  | pxSet (index : Word) (r g b : Byte)
  /-- PX_FILL r, g, b, R203 -/
  | pxFill (r g b : Byte)
  /-- PX_WRITE, R204 -/
  | pxWrite
  /-- SV_ANGLE x, R230 -/
  | svAngle (x : Word)
  /-- SV_PULSE x, R231 -/
  | svPulse (x : Word)
  /-- DB_INIT level, thr, now, R245 -/
  | dbInit (level : Bit) (thr : BitVec 23) (now : Word)
  /-- DB_READ level, now, R246 -/
  | dbRead (level : Bit) (now : Word)
  /-- MA_INIT n, R262 -/
  | maInit (n : BitVec 16)
  /-- MA_ADD x, R263 -/
  | maAdd (x : Word)
  /-- MA_AVG, R265 -/
  | maAvg
  /-- MA_RESET, R264 -/
  | maReset
  deriving DecidableEq, Repr

end Sys2Proof
end

