-- ==== Sys2Proof/WellFormed.lean ====
section
/-! DEFINITION. When a command's operands are legal for a configuration (30_encoding R87, R88 items 3 to 5). The other
items of R88 (unknown opcode, must-be-zero bits, operand codes that name nothing) cannot be written as an `Instr`. -/

namespace Sys2Proof

/-- `line < NUM_LINES` (R88 item 3). -/
def lineLegal (P : Config.Params) (line : Byte) : Bool := decide (line.toNat < P.numLines)

/-- `n ≤ PX_MAX` (R88 item 5). -/
def pxSizeLegal (P : Config.Params) (n : BitVec 16) : Bool := decide (n.toNat ≤ P.pxMax)

/-- `n ≤ MA_MAX` (R88 item 5). -/
def maSizeLegal (P : Config.Params) (n : BitVec 16) : Bool := decide (n.toNat ≤ P.maMax)

/-- The command's operands are in the ranges of R88. -/
def Instr.wellFormed (P : Config.Params) : Instr → Bool
  | .dlSetDir line _ => lineLegal P line
  | .dlSetPull line _ => lineLegal P line
  | .dlWrite line _ => lineLegal P line
  | .dlRead line => lineLegal P line
  | .pxInit n => pxSizeLegal P n
  | .maInit n => maSizeLegal P n
  | .nowMs | .nowUs | .elapsedMs _ | .elapsedUs _ | .tmStart | .tmElapsed => true
  | .owReset | .owWriteBit _ | .owReadBit | .owWriteByte _ | .owReadByte => true
  | .pxSet _ _ _ _ | .pxFill _ _ _ | .pxWrite => true
  | .svAngle _ | .svPulse _ | .dbInit _ _ _ | .dbRead _ _ => true
  | .maAdd _ | .maAvg | .maReset => true

end Sys2Proof
end

