-- ==== Sys2Proof/Decode.lean ====
section
/-! DEFINITION. The decoder, total on every pair (CMD, ARG), with the checks in the order of 30_encoding R90, and the
encoder. Both are written from R83 (formats), R86 (opcode numbers) and R87 (operands). -/

namespace Sys2Proof

/-- Why a command word is not a legal encoding: the cases of R88, by name. Each makes the command respond `ILLEGAL`
(R282); safe, since the response is the one the spec gives. -/
inductive DecodeError where
  /-- R88 item 1: `op` is none of the 27 opcodes -/
  | unknownOpcode
  /-- R88 item 2: a must-be-zero bit of the format is 1 -/
  | mustBeZero
  /-- R88 item 3: `line ≥ NUM_LINES` -/
  | noSuchLine
  /-- R88 item 4: the operand code `val` names nothing -/
  | badOperandCode
  /-- R88 item 5: a construction size above the capacity -/
  | overCapacity
  deriving DecidableEq, Repr

/-! ### The opcode map (R86) -/

/-- The number of an opcode (R86). -/
def Opcode.code : Opcode → Byte
  | .nowMs => 0x10
  | .nowUs => 0x11
  | .elapsedMs => 0x12
  | .elapsedUs => 0x13
  | .tmStart => 0x14
  | .tmElapsed => 0x15
  | .dlSetDir => 0x20
  | .dlSetPull => 0x21
  | .dlWrite => 0x22
  | .dlRead => 0x23
  | .owReset => 0x30
  | .owWriteBit => 0x31
  | .owReadBit => 0x32
  | .owWriteByte => 0x33
  | .owReadByte => 0x34
  | .pxInit => 0x40
  | .pxSet => 0x41
  | .pxFill => 0x42
  | .pxWrite => 0x43
  | .svAngle => 0x50
  | .svPulse => 0x51
  | .dbInit => 0x60
  | .dbRead => 0x61
  | .maInit => 0x70
  | .maAdd => 0x71
  | .maAvg => 0x72
  | .maReset => 0x73

/-- The opcodes, in the order of the table of R86. -/
def Opcode.all : List Opcode :=
  [.nowMs, .nowUs, .elapsedMs, .elapsedUs, .tmStart, .tmElapsed,
   .dlSetDir, .dlSetPull, .dlWrite, .dlRead,
   .owReset, .owWriteBit, .owReadBit, .owWriteByte, .owReadByte,
   .pxInit, .pxSet, .pxFill, .pxWrite,
   .svAngle, .svPulse, .dbInit, .dbRead,
   .maInit, .maAdd, .maAvg, .maReset]

/-- The opcode a number names, if any (R86, R88 item 1). -/
def Opcode.ofCode (c : Byte) : Option Opcode := Opcode.all.find? (fun o => o.code == c)

/-- The format of an opcode (R83, last column). -/
def Opcode.format : Opcode → Format
  | .nowMs | .nowUs | .tmStart | .tmElapsed => .fZ
  | .owReset | .owReadBit | .owReadByte | .pxWrite | .maAvg | .maReset => .fZ
  | .elapsedMs | .elapsedUs => .fT
  | .dlSetDir | .dlSetPull | .dlWrite | .dlRead => .fL
  | .owWriteBit => .fB1
  | .owWriteByte => .fB8
  | .pxInit | .maInit => .fN
  | .pxFill => .fC
  | .pxSet => .fCI
  | .svAngle | .svPulse | .maAdd => .fS
  | .dbInit => .fDI
  | .dbRead => .fDR

/-- The must-be-zero bits of a format, as a mask of `CMD` (R83). -/
def Format.mbz : Format → Word
  | .fZ => 0x00FFFFFF
  | .fT => 0x00FFFFFF
  | .fL => 0x00FF0000
  | .fB1 => 0x00FFFFFE
  | .fB8 => 0x00FFFF00
  | .fN => 0x00FF0000
  | .fC => 0
  | .fCI => 0
  | .fS => 0x00FFFFFF
  | .fDI => 0
  | .fDR => 0x007FFFFF

/-- Does the format read `ARG` (R82, R83)? -/
def Format.readsArg : Format → Bool
  | .fT | .fCI | .fS | .fDI | .fDR => true
  | .fZ | .fL | .fB1 | .fB8 | .fN | .fC => false

/-- The mnemonic of an opcode (R86). -/
def Opcode.mnemonic : Opcode → String
  | .nowMs => "NOW_MS"
  | .nowUs => "NOW_US"
  | .elapsedMs => "ELAPSED_MS"
  | .elapsedUs => "ELAPSED_US"
  | .tmStart => "TM_START"
  | .tmElapsed => "TM_ELAPSED"
  | .dlSetDir => "DL_SET_DIR"
  | .dlSetPull => "DL_SET_PULL"
  | .dlWrite => "DL_WRITE"
  | .dlRead => "DL_READ"
  | .owReset => "OW_RESET"
  | .owWriteBit => "OW_WRITE_BIT"
  | .owReadBit => "OW_READ_BIT"
  | .owWriteByte => "OW_WRITE_BYTE"
  | .owReadByte => "OW_READ_BYTE"
  | .pxInit => "PX_INIT"
  | .pxSet => "PX_SET"
  | .pxFill => "PX_FILL"
  | .pxWrite => "PX_WRITE"
  | .svAngle => "SV_ANGLE"
  | .svPulse => "SV_PULSE"
  | .dbInit => "DB_INIT"
  | .dbRead => "DB_READ"
  | .maInit => "MA_INIT"
  | .maAdd => "MA_ADD"
  | .maAvg => "MA_AVG"
  | .maReset => "MA_RESET"

/-! ### Operand codes (R87 b) -/

/-- The 8-bit code of a direction. -/
def Dir.code : Dir → Byte
  | .input => 0
  | .output => 1

/-- The direction an 8-bit code names. -/
def Dir.ofCode (v : Byte) : Option Dir :=
  if v = 0 then some .input else if v = 1 then some .output else none

/-- The 8-bit code of a pull. -/
def Pull.code : Pull → Byte
  | .none => 0
  | .pullUp => 1
  | .pullDown => 2

/-- The pull an 8-bit code names; 3 is the reserved open-drain code and names nothing (R131, C1). -/
def Pull.ofCode (v : Byte) : Option Pull :=
  if v = 0 then some .none else if v = 1 then some .pullUp else if v = 2 then some .pullDown else Option.none

/-- The level an 8-bit code names. -/
def levelOfCode (v : Byte) : Option Bit :=
  if v = 0 then some 0 else if v = 1 then some 1 else none

/-! ### Fields of the command word (R82, R87) -/

/-- `CMD[31:24]`. -/
def opField (cmd : Word) : Byte := cmd.extractLsb' 24 8
/-- `CMD[23:16]`, also the red channel. -/
def rField (cmd : Word) : Byte := cmd.extractLsb' 16 8
/-- `CMD[15:8]`, the line number, also the green channel. -/
def gField (cmd : Word) : Byte := cmd.extractLsb' 8 8
/-- `CMD[7:0]`, the operand code `val`, the byte, also the blue channel. -/
def bField (cmd : Word) : Byte := cmd.extractLsb' 0 8
/-- `CMD[15:0]`. -/
def nField (cmd : Word) : BitVec 16 := cmd.extractLsb' 0 16
/-- `CMD[0]`. -/
def bitField (cmd : Word) : Bit := cmd.extractLsb' 0 1
/-- `CMD[23]`. -/
def levelField (cmd : Word) : Bit := cmd.extractLsb' 23 1
/-- `CMD[22:0]`. -/
def thrField (cmd : Word) : BitVec 23 := cmd.extractLsb' 0 23

/-! ### The decoder -/

/-- A format L command: the line must exist (R88 item 3), then its operand code must name something (item 4). -/
def readLine (P : Config.Params) (cmd : Word) (operand : Option Instr) : Except DecodeError Instr :=
  if lineLegal P (gField cmd) then
    match operand with
    | some i => .ok i
    | none => .error .badOperandCode
  else .error .noSuchLine

/-- The operands of a command whose opcode is known and whose must-be-zero bits are 0 (R87, R88 items 3 to 5). -/
def readOperands (P : Config.Params) (op : Opcode) (cmd arg : Word) : Except DecodeError Instr :=
  match op with
  | .nowMs => .ok .nowMs
  | .nowUs => .ok .nowUs
  | .elapsedMs => .ok (.elapsedMs arg)
  | .elapsedUs => .ok (.elapsedUs arg)
  | .tmStart => .ok .tmStart
  | .tmElapsed => .ok .tmElapsed
  | .dlSetDir => readLine P cmd ((Dir.ofCode (bField cmd)).map (Instr.dlSetDir (gField cmd)))
  | .dlSetPull => readLine P cmd ((Pull.ofCode (bField cmd)).map (Instr.dlSetPull (gField cmd)))
  | .dlWrite => readLine P cmd ((levelOfCode (bField cmd)).map (Instr.dlWrite (gField cmd)))
  | .dlRead => readLine P cmd (if bField cmd = 0 then some (.dlRead (gField cmd)) else none)
  | .owReset => .ok .owReset
  | .owWriteBit => .ok (.owWriteBit (bitField cmd))
  | .owReadBit => .ok .owReadBit
  | .owWriteByte => .ok (.owWriteByte (bField cmd))
  | .owReadByte => .ok .owReadByte
  | .pxInit => if pxSizeLegal P (nField cmd) then .ok (.pxInit (nField cmd)) else .error .overCapacity
  | .pxSet => .ok (.pxSet arg (rField cmd) (gField cmd) (bField cmd))
  | .pxFill => .ok (.pxFill (rField cmd) (gField cmd) (bField cmd))
  | .pxWrite => .ok .pxWrite
  | .svAngle => .ok (.svAngle arg)
  | .svPulse => .ok (.svPulse arg)
  | .dbInit => .ok (.dbInit (levelField cmd) (thrField cmd) arg)
  | .dbRead => .ok (.dbRead (levelField cmd) arg)
  | .maInit => if maSizeLegal P (nField cmd) then .ok (.maInit (nField cmd)) else .error .overCapacity
  | .maAdd => .ok (.maAdd arg)
  | .maAvg => .ok .maAvg
  | .maReset => .ok .maReset

/-- The decoder: opcode known, then must-be-zero bits, then operand ranges (R90 steps 1 to 3). Total (R89). -/
def decode (P : Config.Params) (cmd arg : Word) : Except DecodeError Instr :=
  match Opcode.ofCode (opField cmd) with
  | none => .error .unknownOpcode
  | some op =>
    if cmd &&& op.format.mbz = 0 then readOperands P op cmd arg
    else .error .mustBeZero

/-! ### The encoder -/

/-- The opcode of a command. -/
def Instr.opcode : Instr → Opcode
  | .nowMs => .nowMs
  | .nowUs => .nowUs
  | .elapsedMs _ => .elapsedMs
  | .elapsedUs _ => .elapsedUs
  | .tmStart => .tmStart
  | .tmElapsed => .tmElapsed
  | .dlSetDir _ _ => .dlSetDir
  | .dlSetPull _ _ => .dlSetPull
  | .dlWrite _ _ => .dlWrite
  | .dlRead _ => .dlRead
  | .owReset => .owReset
  | .owWriteBit _ => .owWriteBit
  | .owReadBit => .owReadBit
  | .owWriteByte _ => .owWriteByte
  | .owReadByte => .owReadByte
  | .pxInit _ => .pxInit
  | .pxSet _ _ _ _ => .pxSet
  | .pxFill _ _ _ => .pxFill
  | .pxWrite => .pxWrite
  | .svAngle _ => .svAngle
  | .svPulse _ => .svPulse
  | .dbInit _ _ _ => .dbInit
  | .dbRead _ _ => .dbRead
  | .maInit _ => .maInit
  | .maAdd _ => .maAdd
  | .maAvg => .maAvg
  | .maReset => .maReset

/-- The mnemonic of a command (R86). -/
def Instr.mnemonic (i : Instr) : String := i.opcode.mnemonic

/-- A command word from its opcode number and its field `a`: `{op, a}` (R82). -/
def packWord (op : Byte) (a : BitVec 24) : Word := (op.setWidth 32 <<< 24) ||| a.setWidth 32

/-- The field `a` from its three bytes, `CMD[23:16]` first: `{hi, mid, lo}` (R83). -/
def packBytes (hi mid lo : Byte) : BitVec 24 :=
  (hi.setWidth 24 <<< 16) ||| (mid.setWidth 24 <<< 8) ||| lo.setWidth 24

/-- The field `a` from bit 23 and bits 22 to 0: `{level, thr}` (R83, formats DI and DR). -/
def packLevel (level : Bit) (thr : BitVec 23) : BitVec 24 := (level.setWidth 24 <<< 23) ||| thr.setWidth 24

/-- The field `a = CMD[23:0]` of a command (R82, R83, R87). -/
def Instr.fieldA : Instr → BitVec 24
  | .dlSetDir line dir => packBytes 0 line dir.code
  | .dlSetPull line pull => packBytes 0 line pull.code
  | .dlWrite line level => packBytes 0 line (level.setWidth 8)
  | .dlRead line => packBytes 0 line 0
  | .owWriteBit bit => bit.setWidth 24
  | .owWriteByte byte => packBytes 0 0 byte
  | .pxInit n => n.setWidth 24
  | .maInit n => n.setWidth 24
  | .pxSet _ r g b => packBytes r g b
  | .pxFill r g b => packBytes r g b
  | .dbInit level thr _ => packLevel level thr
  | .dbRead level _ => packLevel level 0
  | .nowMs | .nowUs | .elapsedMs _ | .elapsedUs _ | .tmStart | .tmElapsed => 0
  | .owReset | .owReadBit | .owReadByte | .pxWrite => 0
  | .svAngle _ | .svPulse _ | .maAdd _ | .maAvg | .maReset => 0

/-- The operand word of a command: 0 for the formats that ignore `ARG` (R82, R83). -/
def Instr.operandWord : Instr → Word
  | .elapsedMs since => since
  | .elapsedUs since => since
  | .pxSet index _ _ _ => index
  | .svAngle x => x
  | .svPulse x => x
  | .maAdd x => x
  | .dbInit _ _ now => now
  | .dbRead _ now => now
  | .nowMs | .nowUs | .tmStart | .tmElapsed => 0
  | .dlSetDir _ _ | .dlSetPull _ _ | .dlWrite _ _ | .dlRead _ => 0
  | .owReset | .owWriteBit _ | .owReadBit | .owWriteByte _ | .owReadByte => 0
  | .pxInit _ | .pxFill _ _ _ | .pxWrite | .maInit _ | .maAvg | .maReset => 0

/-- The encoder: the words (CMD, ARG) of a command. -/
def encode (i : Instr) : Word × Word := (packWord i.opcode.code i.fieldA, i.operandWord)

/-! ### The table's numbering -/

/-- The command word of a table word: bits 31 to 0. -/
def tableCmd (nbits w : Nat) : Word := BitVec.ofNat 32 (w % 2 ^ nbits)

/-- The operand word of a table word: bits 63 to 32, zero when the table gives the row 32 bits. -/
def tableArg (nbits w : Nat) : Word := BitVec.ofNat 32 ((w % 2 ^ nbits) / 2 ^ 32)

/-- What the decoder reads, under the default configuration of R6, from an instruction whose bits are `w`, numbered as
spec/opcode_table.json numbers them: `CMD` first, then `ARG`. The two words travel as whole 32-bit units (R65), so
no byte order comes in. -/
def decodeTableWord (nbits w : Nat) : Option Instr :=
  match decode Config.Params.default (tableCmd nbits w) (tableArg nbits w) with
  | .ok i => some i
  | .error _ => none

end Sys2Proof
end

