-- ==== Sys2Proof/Machine/State.lean ====
section
/-! DEFINITION. The state as plain data (10_state), the ways a step can stop, and the state right after reset
(10_state R50, 70_reset_and_hazards R310). -/

namespace Sys2Proof.Machine

/-- One DigitalLine (R26): direction, pull, output latch. -/
structure Line where
  dir : Dir
  pull : Pull
  out : Bit
  deriving DecidableEq, Repr

/-- A line after reset: released, no pull, latch 0 (R50). -/
def Line.atReset : Line := { dir := .input, pull := .none, out := 0 }

/-- The phases of the two sequencers (R160, R212), `IDLE` between commands (R21). -/
inductive Phase where
  | idle
  | rLow | rWait | rSmp | rRec
  | wLow | wRel
  | rdInit | rdWait | rdSmp | rdRec
  | pHigh | pLow | pLatch
  deriving DecidableEq, Repr

/-- Which single-wire command is running (R160). `none` is the reset value 0 of the register `ow_op` (R50): no
single-wire command. DESIGN CHOICE, safe: no rule reads it in `IDLE` (notes/assumptions/7.md). -/
inductive OwOp where
  | none
  | reset | wbit | rbit | wbyte | rbyte
  deriving DecidableEq, Repr

/-- The transient sequencer registers (R21). -/
structure Sequencer where
  phase : Phase
  owOp : OwOp
  bitidx : BitVec 3
  sh : Byte
  pxPix : BitVec 16
  pxChan : BitVec 2
  pxBit : BitVec 3
  /-- nanoseconds left in the current phase -/
  cnt : Nat
  deriving DecidableEq, Repr

/-- `phase = IDLE`, the rest 0: the value between commands and after reset (R21, R50). -/
def Sequencer.atRest : Sequencer :=
  { phase := .idle, owOp := .none, bitidx := 0, sh := 0, pxPix := 0, pxChan := 0, pxBit := 0, cnt := 0 }

/-- The port registers (R20) and the signal `rsp_valid` (R80, R81). `rspValid` says that the last step gave a response;
the cycles of the handshake take no modelled time (R81; notes/assumptions/6.md). -/
structure Port where
  cmd : Word
  arg : Word
  rspStatus : BitVec 4
  rspData : Word
  rspValid : Bool
  deriving DecidableEq, Repr

/-- The port after reset (R50). -/
def Port.atReset : Port := { cmd := 0, arg := 0, rspStatus := 0, rspData := 0, rspValid := false }

/-- The pixel memory and its length register (R29, R60). -/
structure PixelBuffer where
  n : BitVec 16
  entries : List Triplet
  deriving DecidableEq, Repr

/-- The debouncer's registers (R30); `last` is the Tick of the last commit or of construction (C2). -/
structure Debouncer where
  acc : Bit
  last : Word
  thr : BitVec 23
  deriving DecidableEq, Repr

/-- The moving average's window size and held samples, oldest first (R31, R61). -/
structure MovingAverage where
  size : BitVec 16
  buf : List Word
  deriving DecidableEq, Repr

/-- What the host and the environment do next (R8, R9, R80, R310, R311). The model's own (notes/assumptions/3.md). -/
inductive Input where
  /-- the host presents `(CMD, ARG)`, run as one atomic step (R9) -/
  | command (cmd arg : Word)
  /-- the host presents `(CMD, ARG)`, run one phase a step (R160, R212) -/
  | phased (cmd arg : Word)
  /-- the environment lets `d` nanoseconds pass with no command running (R9) -/
  | idle (d : Nat)
  /-- the hardware reset (R310) -/
  | hardReset
  /-- the host presents `(CMD, ARG)` and the reset cuts it after `k` events (R311) -/
  | abort (cmd arg : Word) (k : Nat)
  deriving DecidableEq, Repr

/-- The state record `S` of 10_state, the port registers of R20, the configuration record `P` of R6, and three fields
of the model's own: `inputs`, `answers`, `draws`. Plain data. -/
structure State where
  /-- the configuration record `P` (R6); written by nothing -/
  cfg : Config.Params
  /-- `S.T`, the hidden time in nanoseconds (R22) -/
  time : Nat
  /-- `S.log`, oldest event first (R40) -/
  log : List Event
  /-- the port registers (R20) -/
  port : Port
  /-- the sequencer registers (R21) -/
  seq : Sequencer
  /-- `S.tm_start`, a Tick of the millisecond domain (R25) -/
  tmStart : Word
  /-- one entry per line (R26) -/
  lines : List Line
  /-- `S.px_n`, `S.px` (R29) -/
  px : PixelBuffer
  /-- `S.db_acc`, `S.db_last`, `S.db_thr` (R30) -/
  db : Debouncer
  /-- `S.ma_size`, `S.ma_buf` (R31) -/
  ma : MovingAverage
  /-- MODEL's own: what the host and the environment do next -/
  inputs : List Input
  /-- MODEL's own: the environment's answers to the coming samples (R12) -/
  answers : List EnvAnswer
  /-- MODEL's own: how many free values have been drawn from the environment's uninterpreted functions -/
  draws : Nat
  deriving DecidableEq, Repr

/-- No step of this machine faults: every command ends, and ends in a response (R280, R283, R332), so there is no
constructor. Safe: nothing the spec gives an effect is stopped (notes/assumptions/17.md). -/
inductive Fault where
  deriving DecidableEq, Repr

/-- Why a step has no meaning. -/
inductive Refusal where
  /-- raised by an arm of `exec` whose command has no meaning yet; no arm raises it now. Safe: the run stops. -/
  | notModelled (mnemonic : String)
  deriving DecidableEq, Repr

/-- The events the reset appends: every line is released and its pull removed (R50, R310). The order among lines is a
DESIGN CHOICE, safe for every waveform (notes/assumptions/8.md). -/
def resetEvents (numLines : Nat) : List Event :=
  (List.range numLines).flatMap (fun l => [.drive l .z, .pull l .none])

/-- The machine right after a reset at hidden time `T0`, for any configuration (R50, R310, R22): `T0` is any natural
number the environment picks. The log holds the reset's own events and nothing before them. -/
def State.powerOn (P : Config.Params) (T0 : Nat) : State where
  cfg := P
  time := T0
  log := resetEvents P.numLines
  port := Port.atReset
  seq := Sequencer.atRest
  tmStart := 0
  lines := List.replicate P.numLines Line.atReset
  px := { n := 0, entries := [] }
  db := { acc := 0, last := 0, thr := 0 }
  ma := { size := 0, buf := [] }
  inputs := []
  answers := []
  draws := 0

/-- The machine right after reset, with the defaults of R6 and `T0 = 0`. DESIGN CHOICE, unsafe: both are one value of
many (notes/assumptions/1.md, notes/assumptions/2.md); statements speak of `State.powerOn P T0`. -/
def State.reset : State := State.powerOn Config.Params.default 0

end Sys2Proof.Machine
end

