-- ==== Sys2Proof/Machine/Flags.lean ====
section
/-! DEFINITION. The block has no status flags and no condition codes (10_state R23). What stands in their place is the
status code of a response (30_encoding R84) and the two exceptions (60_exceptions R280), written here. -/

namespace Sys2Proof.Machine

/-- The outcome of a command as its response carries it (R84). Codes 3 to 15 are never produced (U8). -/
inductive Status where
  | ok
  | invalidState
  | illegal
  deriving DecidableEq, Repr

/-- `rsp_status` (R84). -/
def Status.code : Status → BitVec 4
  | .ok => 0
  | .invalidState => 1
  | .illegal => 2

/-- The two synchronous exceptions, and no others (R280). -/
inductive Exception where
  /-- a line in the wrong direction (R281) -/
  | invalidState
  /-- an illegal command word (R282, R88) -/
  | illegal
  deriving DecidableEq, Repr

/-- The status an exception is reported with (R280). -/
def Exception.status : Exception → Status
  | .invalidState => .invalidState
  | .illegal => .illegal

end Sys2Proof.Machine
end

