-- ==== Sys2Proof/Machine/Operands.lean ====
section
/-! DEFINITION. How operands are read (30_encoding R87) and the block's arithmetic, all of it (00_scope R10;
30_encoding R98). -/

namespace Sys2Proof.Machine

/-! ### Ticks (R10, R87 i) -/

/-- A natural number as a `W`-bit value in a 32-bit word: the number `mod 2^W` (R24). -/
def tickOfNat (P : Config.Params) (n : Nat) : Word := BitVec.ofNat 32 (n % 2 ^ P.tickBits)

/-- A Tick operand: the low `W` bits of `ARG`, the bits above ignored (R87 i). -/
def tickOperand (P : Config.Params) (arg : Word) : Word := tickOfNat P arg.toNat

/-- `tdiff(a, b) = (a - b) mod 2^W`: the wraparound-safe subtraction (R10, R98 a). -/
def tdiff (P : Config.Params) (a b : Word) : Word :=
  BitVec.ofNat 32 (((a.toNat : Int) - (b.toNat : Int)) % (2 ^ P.tickBits : Nat)).toNat

/-! ### Signed numbers (R10, R87 h) -/

/-- `sint_32(v)`. -/
def sint32 (v : Word) : Int := v.toInt

/-- `u32(i)`. -/
def u32 (i : Int) : Word := BitVec.ofInt 32 i

/-- `clamp(x, lo, hi)`. -/
def clamp (x lo hi : Int) : Int := if x < lo then lo else if hi < x then hi else x

/-- `a tdiv b`: the quotient rounded toward zero (R10). -/
def tdiv (a b : Int) : Int := Int.tdiv a b

/-! ### Other operands -/

/-- `zext_32` of a bit (R10). -/
def zextBit (b : Bit) : Word := b.setWidth 32

/-- `zext_32` of a byte (R10). -/
def zextByte (b : Byte) : Word := b.setWidth 32

/-- A line number (R87 a, R134). -/
def lineOperand (line : Byte) : Nat := line.toNat

/-- A triplet index: `ARG` unsigned, never negative (R87 g). -/
def indexOperand (index : Word) : Nat := index.toNat

/-- A colour operand `(r, g, b)` (R87 f, R65). -/
def colourOperand (r g b : Byte) : Triplet := { r := r, g := g, b := b }

/-- A debouncer threshold in ticks (R87 k, R248). -/
def thresholdOperand (thr : BitVec 23) : Nat := thr.toNat

end Sys2Proof.Machine
end

