-- ==== Sys2Proof/Machine/Ops.lean ====
section
/-! DEFINITION. The primitives of 00_scope R11, by which alone a meaning touches a line, time, the environment or the
host; the exceptions (60_exceptions R283); the idle step (R9) and the hardware reset (70_reset_and_hazards R310); the
port signals (30_encoding R80). -/

namespace Sys2Proof.Machine

/-! ### Lines (R11, R26, R134, R135) -/

/-- The registers of line `l`. A number that names no line reads as a line after reset; every meaning checks the
number first (R88 item 3). -/
def State.line (s : State) (l : Nat) : Line := s.lines.getD l Line.atReset

/-- Write the registers of line `l`. -/
def State.setLine (s : State) (l : Nat) (ln : Line) : State := { s with lines := s.lines.set l ln }

/-- `pad(l)` (R11): released as an input, else driven to the latch's level. -/
def Line.pad (ln : Line) : Pad :=
  match ln.dir with
  | .input => .z
  | .output => if ln.out = 0 then .l else .h

/-- Append an event to the log (R40). -/
def State.record (s : State) (e : Event) : State := { s with log := s.log ++ [e] }

/-- Append `Drive(l, pad(l))`. -/
def State.announce (s : State) (l : Nat) : State := s.record (.drive l (s.line l).pad)

/-- `drive(l, d, o)`: direction and latch in the same instant (R11). -/
def drive (l : Nat) (d : Dir) (o : Bit) (s : State) : State :=
  (s.setLine l { (s.line l) with dir := d, out := o }).announce l

/-- `release(l)`: direction `Input`, latch kept, pad `Z` (R11). -/
def release (l : Nat) (s : State) : State :=
  (s.setLine l { (s.line l) with dir := .input }).record (.drive l .z)

/-- `setpull(l, p)` (R11). -/
def setPull (l : Nat) (p : Pull) (s : State) : State :=
  (s.setLine l { (s.line l) with pull := p }).record (.pull l p)

/-- Set the direction alone, then the pad shows it (R130). -/
def setDir (l : Nat) (d : Dir) (s : State) : State :=
  (s.setLine l { (s.line l) with dir := d }).announce l

/-- Set the latch alone, then the pad shows it (R132). -/
def setOut (l : Nat) (v : Bit) (s : State) : State :=
  (s.setLine l { (s.line l) with out := v }).announce l

/-- Is `line` a line of this block (R87 a, R134)? -/
def State.hasLine (s : State) (line : Byte) : Bool := lineLegal s.cfg line

/-! ### Time (R11, R22, R24) -/

/-- `wait(d)`: exactly `d` nanoseconds; `wait(0)` does nothing (R11, R330). -/
def wait (d : Nat) (s : State) : State :=
  if d = 0 then s else { s with time := s.time + d, log := s.log ++ [.wait d] }

/-- `now_us` (R24). -/
def State.nowUs (s : State) : Word := tickOfNat s.cfg (s.time / 1000)

/-- `now_ms` (R24). -/
def State.nowMs (s : State) : Word := tickOfNat s.cfg (s.time / 1000000)

/-! ### Samples (R11, R12, R136) -/

/-- `resolve(ext, pull, draw)`: the table of R136. -/
def resolve (ext : Ext) (pull : Pull) (draw : Bit) : Bit :=
  match ext with
  | .l => 0
  | .h => 1
  | .z =>
    match pull with
    | .pullUp => 1
    | .pullDown => 0
    | .none => draw

/-- The environment's answer to a sample of line `l` taken now: the next scripted one, else a free value (R12). -/
def State.envAnswer (s : State) (l : Nat) : EnvAnswer :=
  match s.answers with
  | a :: _ => a
  | [] => Config.oracleAnswer s.draws s.log l

/-- The scripted answer is used up, or one more free value has been drawn. -/
def State.answerUsed (s : State) : State :=
  match s.answers with
  | _ :: rest => { s with answers := rest }
  | [] => { s with draws := s.draws + 1 }

/-- The level that `sample(l)` reads now (R11, R136). -/
def State.sampledLevel (s : State) (l : Nat) : Bit :=
  resolve (s.envAnswer l).ext (s.line l).pull (s.envAnswer l).draw

/-- `sample(l)`: ask the environment, log, and return the level; it takes no time. Every rule that samples a line has
it as an input first (R27 a). -/
def sample (l : Nat) (s : State) : Bit × State :=
  (s.sampledLevel l, s.answerUsed.record (.sample l (s.envAnswer l).ext (s.sampledLevel l)))

/-! ### Responses and exceptions (R11, R84, R85, R280 to R285) -/

/-- `respond(st, data)` (R11). -/
def respond (st : Status) (data : Word) (s : State) : State :=
  { s with port := { s.port with rspStatus := st.code, rspData := data, rspValid := true } }

/-- A response with status `OK`. -/
def respondOk (data : Word) (s : State) : State := respond .ok data s

/-- `raise E`: TAKING AN EXCEPTION. The response carries the code and data 0; no register of the block is written, no
event is logged, no time passes, control goes nowhere (R283). THE RETURN FROM ONE: there is none and nothing to
restore; the next command is accepted as usual (R285). -/
def raise (e : Exception) (s : State) : State := respond e.status 0 s

/-! ### The other steps (R9, R310) -/

/-- The idle step: `d` nanoseconds pass with no command running (R9). -/
def idleFor (d : Nat) (s : State) : State := wait d s

/-- The hardware reset (R310): every register at its value of R50, `S.T` kept, the log kept and extended. What the host
and the environment do next is not the block's and stays. -/
def hardReset (s : State) : State :=
  { State.powerOn s.cfg s.time with
    log := s.log ++ resetEvents s.cfg.numLines
    inputs := s.inputs
    answers := s.answers
    draws := s.draws }

/-! ### Port signals that are views of the registers (R80, R81, R135) -/

/-- `cmd_ready`: the sequencer is in `IDLE` and no response is pending (R81). A response is pending from the step that gave
it until the next step begins (notes/assumptions/6.md). -/
def State.cmdReady (s : State) : Bool := decide (s.seq.phase = .idle) && !s.port.rspValid

/-- `line_oe[l]`. -/
def State.lineOe (s : State) (l : Nat) : Bool := decide ((s.line l).dir = .output)

/-- `line_out[l]`. -/
def State.lineOut (s : State) (l : Nat) : Bit := (s.line l).out

/-- `pull_up[l]`. -/
def State.pullUp (s : State) (l : Nat) : Bool := decide ((s.line l).pull = .pullUp)

/-- `pull_dn[l]`. -/
def State.pullDn (s : State) (l : Nat) : Bool := decide ((s.line l).pull = .pullDown)

end Sys2Proof.Machine
end

