-- ==== Sys2Proof/Machine/Debouncer.lean ====
section
/-! DEFINITION. Debouncer commands (45_debouncer R245, R246): the hold-off filter of the source's algorithm, to the letter
(90_conflicts C2, C3, C6). -/

namespace Sys2Proof.Machine

/-- DB_INIT (R245). -/
def execDbInit (level : Bit) (thr : BitVec 23) (now : Word) (s : State) : Host.Outcome State Fault Refusal :=
  .next (respondOk 0 { s with db := { acc := level, last := tickOperand s.cfg now, thr := thr } })

/-- One observation: a level that differs is committed when strictly more than the threshold has passed since the last
commit, else ignored (R246). -/
def observe (P : Config.Params) (level : Bit) (now : Word) (d : Debouncer) : Debouncer :=
  if level ≠ d.acc ∧ thresholdOperand d.thr < (tdiff P now d.last).toNat then
    { d with acc := level, last := now }
  else d

/-- DB_READ (R246): the accepted level after this observation. -/
def execDbRead (level : Bit) (now : Word) (s : State) : Host.Outcome State Fault Refusal :=
  let d := observe s.cfg level (tickOperand s.cfg now) s.db
  .next (respondOk (zextBit d.acc) { s with db := d })

end Sys2Proof.Machine
end

