-- ==== Sys2Proof/Machine/DigitalLine.lean ====
section
/-! DEFINITION. DigitalLine commands (41_digital_line R130 to R133). A line number that does not exist is `ILLEGAL`
before anything else (30_encoding R88 item 3, R90). -/

namespace Sys2Proof.Machine

/-- DL_SET_DIR (R130). -/
def execDlSetDir (line : Byte) (dir : Dir) (s : State) : Host.Outcome State Fault Refusal :=
  if s.hasLine line then .next (respondOk 0 (setDir (lineOperand line) dir s))
  else .next (raise .illegal s)

/-- DL_SET_PULL (R131). -/
def execDlSetPull (line : Byte) (pull : Pull) (s : State) : Host.Outcome State Fault Refusal :=
  if s.hasLine line then .next (respondOk 0 (setPull (lineOperand line) pull s))
  else .next (raise .illegal s)

/-- DL_WRITE (R132): `INVALID_STATE` unless the line is an output. -/
def execDlWrite (line : Byte) (level : Bit) (s : State) : Host.Outcome State Fault Refusal :=
  if s.hasLine line then
    match (s.line (lineOperand line)).dir with
    | .input => .next (raise .invalidState s)
    | .output => .next (respondOk 0 (setOut (lineOperand line) level s))
  else .next (raise .illegal s)

/-- DL_READ (R133): `INVALID_STATE` unless the line is an input. -/
def execDlRead (line : Byte) (s : State) : Host.Outcome State Fault Refusal :=
  if s.hasLine line then
    match (s.line (lineOperand line)).dir with
    | .output => .next (raise .invalidState s)
    | .input =>
      let (v, t) := sample (lineOperand line) s
      .next (respondOk (zextBit v) t)
  else .next (raise .illegal s)

end Sys2Proof.Machine
end

