-- ==== Sys2Proof/Machine/MovingAverage.lean ====
section
/-! DEFINITION. MovingAverage commands (46_moving_average R262 to R265). Samples are signed 32-bit integers, the sum is
exact (R261). -/

namespace Sys2Proof.Machine

/-- MA_INIT (R262): a new filter; `ILLEGAL` when `n > MA_MAX` (R88 item 5). -/
def execMaInit (n : BitVec 16) (s : State) : Host.Outcome State Fault Refusal :=
  if maSizeLegal s.cfg n then .next (respondOk 0 { s with ma := { size := n, buf := [] } })
  else .next (raise .illegal s)

/-- Append at the tail, then drop the head if over size (R263). -/
def addSample (size : Nat) (buf : List Word) (x : Word) : List Word :=
  if size < (buf ++ [x]).length then (buf ++ [x]).tail else buf ++ [x]

/-- MA_ADD (R263). -/
def execMaAdd (x : Word) (s : State) : Host.Outcome State Fault Refusal :=
  .next (respondOk 0 { s with ma := { s.ma with buf := addSample s.ma.size.toNat s.ma.buf x } })

/-- The exact sum of the held samples (R265, R98 d). -/
def sampleSum (buf : List Word) : Int := (buf.map sint32).sum

/-- The mean of the held samples rounded toward zero, 0 when none is held (R265). -/
def meanOf (buf : List Word) : Int :=
  if buf.length = 0 then 0 else tdiv (sampleSum buf) buf.length

/-- MA_AVG (R265). -/
def execMaAvg (s : State) : Host.Outcome State Fault Refusal :=
  .next (respondOk (u32 (meanOf s.ma.buf)) s)

/-- MA_RESET (R264): the samples go, the size stays. -/
def execMaReset (s : State) : Host.Outcome State Fault Refusal :=
  .next (respondOk 0 { s with ma := { s.ma with buf := [] } })

end Sys2Proof.Machine
end

