-- ==== Sys2Proof/Machine/OneWire.lean ====
section
/-! DEFINITION. OneWireBus commands on line 0 (42_onewire R150 to R156). Every duration is a field of the configuration
or a difference of two (00_scope R7, R157). -/

namespace Sys2Proof.Machine

/-- "Drive low" (R156): direction `Output` and latch 0 in the same instant. -/
def owDriveLow (s : State) : State := drive Config.lineOw .output 0 s

/-- "Release" (R156). -/
def owRelease (s : State) : State := release Config.lineOw s

/-- The low time of a write slot (R152). -/
def writeLow (P : Config.Params) (bit : Bit) : Nat := if bit = 1 then P.tW1l else P.tW0l

/-- One write slot (R152). -/
def writeSlot (bit : Bit) (s : State) : State :=
  let low := writeLow s.cfg bit
  wait (s.cfg.tWslot - low) (owRelease (wait low (owDriveLow s)))

/-- The part of a read slot up to the sample (R153). -/
def readLead (s : State) : State := wait s.cfg.tRwait (owRelease (wait s.cfg.tRinit (owDriveLow s)))

/-- The rest of a read slot after the sample (R153, R157). -/
def readTail (P : Config.Params) : Nat := P.tRslot - P.tRinit - P.tRwait

/-- One read slot: the level sampled and the state after the slot (R153). -/
def readSlot (s : State) : Bit × State :=
  let (v, t) := sample Config.lineOw (readLead s)
  (v, wait (readTail s.cfg) t)

/-- Write slots for a list of bits, back to back (R154). -/
def writeSlots : List Bit → State → State
  | [], s => s
  | b :: bits, s => writeSlots bits (writeSlot b s)

/-- The bits of a byte, least significant first (R63). -/
def bitsLsbFirst (byte : Byte) : List Bit := (List.range 8).map (fun i => byte.extractLsb' i 1)

/-- `r[i] <- v` on an 8-bit register. -/
def setByteBit (r : Byte) (i : Nat) (v : Bit) : Byte :=
  (r &&& ~~~(1#8 <<< i)) ||| (v.setWidth 8 <<< i)

/-- Read slots into bits `i`, `i + 1`, ... of `r`, back to back (R155). -/
def readSlots : Nat → Nat → Byte → State → Byte × State
  | 0, _, r, s => (r, s)
  | k + 1, i, r, s =>
    let (v, t) := readSlot s
    readSlots k (i + 1) (setByteBit r i v) t

/-- The low part and the wait of a reset, with the pull-up set at the release (R151). -/
def resetLead (s : State) : State :=
  wait s.cfg.tPdwait (setPull Config.lineOw .pullUp (owRelease (wait s.cfg.tRstl (owDriveLow s))))

/-- OW_RESET (R151): reset pulse and presence detection; data 1 when the sample was low. -/
def execOwReset (s : State) : Host.Outcome State Fault Refusal :=
  let (v, t) := sample Config.lineOw (resetLead s)
  .next (respondOk (if v = 0 then 1 else 0) (wait s.cfg.tRstrec t))

/-- OW_WRITE_BIT (R152). -/
def execOwWriteBit (bit : Bit) (s : State) : Host.Outcome State Fault Refusal :=
  .next (respondOk 0 (writeSlot bit s))

/-- OW_READ_BIT (R153). -/
def execOwReadBit (s : State) : Host.Outcome State Fault Refusal :=
  let (v, t) := readSlot s
  .next (respondOk (zextBit v) t)

/-- OW_WRITE_BYTE (R154): eight write slots, least significant bit first. -/
def execOwWriteByte (byte : Byte) (s : State) : Host.Outcome State Fault Refusal :=
  .next (respondOk 0 (writeSlots (bitsLsbFirst byte) s))

/-- OW_READ_BYTE (R155): eight read slots, the first bit read is bit 0. -/
def execOwReadByte (s : State) : Host.Outcome State Fault Refusal :=
  let (r, t) := readSlots 8 0 0 s
  .next (respondOk (zextByte r) t)

end Sys2Proof.Machine
end

