-- ==== Sys2Proof/Machine/Pixel.lean ====
section
/-! DEFINITION. PixelBuffer and PixelBus commands (43_pixel R200 to R209), and the form of the two internal memories
(20_memory R60, R61). -/

namespace Sys2Proof.Machine

/-- The canonical form of the two internal memories (R29, R31, R60, R61; notes/assumptions/12.md): the pixel memory has
exactly `px_n` entries, the sample memory at most `ma_size`, and both stay within their capacities. -/
abbrev Memory.wf (s : State) : Prop :=
  s.px.entries.length = s.px.n.toNat ∧ s.px.n.toNat ≤ s.cfg.pxMax ∧
  s.ma.buf.length ≤ s.ma.size.toNat ∧ s.ma.size.toNat ≤ s.cfg.maMax

/-- Every LED off (R201). -/
def blackTriplet : Triplet := { r := 0, g := 0, b := 0 }

/-- `S.px[i]`, or nothing where no entry exists (R29). -/
def State.pixelAt (s : State) (i : Nat) : Option Triplet := s.px.entries[i]?

/-- `S.px[i]` for an index below `px_n`. -/
def State.pixel (s : State) (i : Nat) : Triplet := s.px.entries.getD i blackTriplet

/-- PX_INIT (R201): a new buffer of `n` black entries; `ILLEGAL` when `n > PX_MAX` (R88 item 5). -/
def execPxInit (n : BitVec 16) (s : State) : Host.Outcome State Fault Refusal :=
  if pxSizeLegal s.cfg n then
    .next (respondOk 0 { s with px := { n := n, entries := List.replicate n.toNat blackTriplet } })
  else .next (raise .illegal s)

/-- PX_SET (R202): an index at or beyond `px_n` is a silent no-op. -/
def execPxSet (index : Word) (r g b : Byte) (s : State) : Host.Outcome State Fault Refusal :=
  if indexOperand index < s.px.n.toNat then
    .next (respondOk 0
      { s with px := { s.px with entries := s.px.entries.set (indexOperand index) (colourOperand r g b) } })
  else .next (respondOk 0 s)

/-- PX_FILL (R203): every entry, nothing transmitted. -/
def execPxFill (r g b : Byte) (s : State) : Host.Outcome State Fault Refusal :=
  .next (respondOk 0
    { s with px := { s.px with entries := List.replicate s.px.n.toNat (colourOperand r g b) } })

/-- The high time of a bit cell (R205). -/
def cellHigh (P : Config.Params) (v : Bit) : Nat := if v = 1 then P.t1h else P.t0h

/-- The low time of a bit cell (R205). -/
def cellLow (P : Config.Params) (v : Bit) : Nat := if v = 1 then P.t1l else P.t0l

/-- `emit_bit(v)` (R205): a high pulse, then a low pulse. -/
def emitBit (v : Bit) (s : State) : State :=
  wait (cellLow s.cfg v) (drive Config.linePx .output 0
    (wait (cellHigh s.cfg v) (drive Config.linePx .output 1 s)))

/-- Bit cells for a list of bits, back to back (R204). -/
def emitBits : List Bit → State → State
  | [], s => s
  | v :: bits, s => emitBits bits (emitBit v s)

/-- Bit `k` of a byte. -/
def byteBit (byte : Byte) (k : Nat) : Bit := byte.extractLsb' k 1

/-- The bits of a byte, most significant first (R64, R206). -/
def bitsMsbFirst (byte : Byte) : List Bit := [7, 6, 5, 4, 3, 2, 1, 0].map (byteBit byte)

/-- The bits of a triplet on the wire: green, red, blue (R64, R206). -/
def tripletBits (t : Triplet) : List Bit := bitsMsbFirst t.g ++ bitsMsbFirst t.r ++ bitsMsbFirst t.b

/-- `k` triplets from index `p` on, in buffer order (R204). -/
def emitTriplets : Nat → Nat → State → State
  | 0, _, s => s
  | k + 1, p, s => emitTriplets k (p + 1) (emitBits (tripletBits (s.pixel p)) s)

/-- The latch gap (R207). -/
def latchGap (s : State) : State := wait s.cfg.tLatch (drive Config.linePx .output 0 s)

/-- PX_WRITE (R204): the whole buffer as one frame, then the latch gap; `INVALID_STATE` unless line 1 is an output
(R208). -/
def execPxWrite (s : State) : Host.Outcome State Fault Refusal :=
  match (s.line Config.linePx).dir with
  | .input => .next (raise .invalidState s)
  | .output => .next (respondOk 0 (latchGap (emitTriplets s.px.n.toNat 0 s)))

end Sys2Proof.Machine
end

