-- ==== Sys2Proof/Machine/Servo.lean ====
section
/-! DEFINITION. ServoMapper commands (44_servo R230, R231): pure functions, no line is driven (R234). -/

namespace Sys2Proof.Machine

/-- `(clamp(x, 0, top) * MAX_DUTY) div top`, over the unbounded integers (R230, R231, R98 c). -/
def dutyOf (P : Config.Params) (x : Int) (top : Nat) : Int := (clamp x 0 top * P.maxDuty) / top

/-- SV_ANGLE (R230). -/
def execSvAngle (x : Word) (s : State) : Host.Outcome State Fault Refusal :=
  .next (respondOk (u32 (dutyOf s.cfg (sint32 x) 180)) s)

/-- SV_PULSE (R231). -/
def execSvPulse (x : Word) (s : State) : Host.Outcome State Fault Refusal :=
  .next (respondOk (u32 (dutyOf s.cfg (sint32 x) s.cfg.periodUs)) s)

end Sys2Proof.Machine
end

