-- ==== Sys2Proof/Machine/TimeBase.lean ====
section
/-! DEFINITION. TimeBase and Timer commands (40_timebase R110 to R115). -/

namespace Sys2Proof.Machine

/-- NOW_MS (R110): the millisecond tick counter. -/
def execNowMs (s : State) : Host.Outcome State Fault Refusal := .next (respondOk s.nowMs s)

/-- NOW_US (R111): the microsecond tick counter. -/
def execNowUs (s : State) : Host.Outcome State Fault Refusal := .next (respondOk s.nowUs s)

/-- ELAPSED_MS (R112): millisecond ticks since `since`. -/
def execElapsedMs (since : Word) (s : State) : Host.Outcome State Fault Refusal :=
  .next (respondOk (tdiff s.cfg s.nowMs (tickOperand s.cfg since)) s)

/-- ELAPSED_US (R113): microsecond ticks since `since`. -/
def execElapsedUs (since : Word) (s : State) : Host.Outcome State Fault Refusal :=
  .next (respondOk (tdiff s.cfg s.nowUs (tickOperand s.cfg since)) s)

/-- TM_START (R114): capture the start timestamp. -/
def execTmStart (s : State) : Host.Outcome State Fault Refusal :=
  .next (respondOk 0 { s with tmStart := s.nowMs })

/-- TM_ELAPSED (R115): milliseconds since the start timestamp. -/
def execTmElapsed (s : State) : Host.Outcome State Fault Refusal :=
  .next (respondOk (tdiff s.cfg s.nowMs s.tmStart) s)

end Sys2Proof.Machine
end

