-- ==== Sys2Proof/Machine/Dispatch.lean ====
section
/-! DEFINITION. One arm per command, each one direct call of its meaning. -/

namespace Sys2Proof.Machine

def exec (i : Instr) (s : State) : Host.Outcome State Fault Refusal :=
  match i with
  | .nowMs => Sys2Proof.Machine.execNowMs s
  | .nowUs => Sys2Proof.Machine.execNowUs s
  | .elapsedMs since => Sys2Proof.Machine.execElapsedMs since s
  | .elapsedUs since => Sys2Proof.Machine.execElapsedUs since s
  | .tmStart => Sys2Proof.Machine.execTmStart s
  | .tmElapsed => Sys2Proof.Machine.execTmElapsed s
  | .dlSetDir line dir => Sys2Proof.Machine.execDlSetDir line dir s
  | .dlSetPull line pull => Sys2Proof.Machine.execDlSetPull line pull s
  | .dlWrite line level => Sys2Proof.Machine.execDlWrite line level s
  | .dlRead line => Sys2Proof.Machine.execDlRead line s
  | .owReset => Sys2Proof.Machine.execOwReset s
  | .owWriteBit bit => Sys2Proof.Machine.execOwWriteBit bit s
  | .owReadBit => Sys2Proof.Machine.execOwReadBit s
  | .owWriteByte byte => Sys2Proof.Machine.execOwWriteByte byte s
  | .owReadByte => Sys2Proof.Machine.execOwReadByte s
  | .pxInit n => Sys2Proof.Machine.execPxInit n s
  | .pxSet index r g b => Sys2Proof.Machine.execPxSet index r g b s
  | .pxFill r g b => Sys2Proof.Machine.execPxFill r g b s
  | .pxWrite => Sys2Proof.Machine.execPxWrite s
  | .svAngle x => Sys2Proof.Machine.execSvAngle x s
  | .svPulse x => Sys2Proof.Machine.execSvPulse x s
  | .dbInit level thr now => Sys2Proof.Machine.execDbInit level thr now s
  | .dbRead level now => Sys2Proof.Machine.execDbRead level now s
  | .maInit n => Sys2Proof.Machine.execMaInit n s
  | .maAdd x => Sys2Proof.Machine.execMaAdd x s
  | .maAvg => Sys2Proof.Machine.execMaAvg s
  | .maReset => Sys2Proof.Machine.execMaReset s

end Sys2Proof.Machine
end

