-- ==== Sys2Proof/Machine/Sequencer.lean ====
section
/-! DEFINITION. The small-step view: the phase tables of 42_onewire R160 and 43_pixel R212, row by row. A phase step does
the entry actions, then waits the phase's length, then moves on. -/

namespace Sys2Proof.Machine

/-- Write the sequencer registers. -/
def State.setSeq (s : State) (q : Sequencer) : State := { s with seq := q }

/-- Let the phase's remaining time `cnt` run down to 0 (R21). -/
def countDown (s : State) : State :=
  let t := wait s.seq.cnt s
  t.setSeq { t.seq with cnt := 0 }

/-- Spend `len` nanoseconds in the current phase, then go to the phase `next`. -/
def spend (len : Nat) (next : Phase) (s : State) : State :=
  let t := countDown (s.setSeq { s.seq with cnt := len })
  t.setSeq { t.seq with phase := next }

/-- The response, and back to `IDLE` with all transient registers 0 (R160, R212). -/
def finish (data : Word) (s : State) : State := (respondOk data s).setSeq Sequencer.atRest

/-- `cur` of R160: the bit being written, `CMD[0]` for WBIT, `sh[bitidx]` for WBYTE. -/
def State.curWriteBit (s : State) : Bit :=
  match s.seq.owOp with
  | .wbyte => byteBit s.seq.sh s.seq.bitidx.toNat
  | .none | .reset | .wbit | .rbit | .rbyte => bitField s.port.cmd

/-- `last` of R160. -/
def State.lastSlot (s : State) : Bool :=
  match s.seq.owOp with
  | .wbyte | .rbyte => s.seq.bitidx == 7
  | .none | .reset | .wbit | .rbit => true

/-- `sh[bitidx] <- sample(0)` (R160). -/
def sampleIntoSh (s : State) : State :=
  let (v, t) := sample Config.lineOw s
  t.setSeq { t.seq with sh := setByteBit t.seq.sh t.seq.bitidx.toNat v }

/-- Go to the next slot (R160): `bitidx <- bitidx + 1`. -/
def nextSlot (p : Phase) (s : State) : State :=
  s.setSeq { s.seq with bitidx := s.seq.bitidx + 1, phase := p }

/-- Channel `px_chan` of a triplet: 0 green, 1 red, 2 blue (R212). -/
def tripletChannel (t : Triplet) (c : BitVec 2) : Byte :=
  if c = 0 then t.g else if c = 1 then t.r else t.b

/-- `cur` of R212: bit `px_bit` of channel `px_chan` of `S.px[px_pix]`. -/
def State.curPixelBit (s : State) : Bit :=
  byteBit (tripletChannel (s.pixel s.seq.pxPix.toNat) s.seq.pxChan) s.seq.pxBit.toNat

/-- Where `P_LOW` goes (R212, last column). -/
def afterPixelBit (s : State) : State :=
  if 0 < s.seq.pxBit.toNat then s.setSeq { s.seq with pxBit := s.seq.pxBit - 1, phase := .pHigh }
  else if s.seq.pxChan.toNat < 2 then
    s.setSeq { s.seq with pxChan := s.seq.pxChan + 1, pxBit := 7, phase := .pHigh }
  else if s.seq.pxPix.toNat + 1 < s.px.n.toNat then
    s.setSeq { s.seq with pxPix := s.seq.pxPix + 1, pxChan := 0, pxBit := 7, phase := .pHigh }
  else s.setSeq { s.seq with phase := .pLatch }

/-- One phase step (R160, R212). -/
def phaseStep (s : State) : State :=
  match s.seq.phase with
  | .idle => s
  | .rLow => spend s.cfg.tRstl .rWait (owDriveLow s)
  | .rWait => spend s.cfg.tPdwait .rSmp (setPull Config.lineOw .pullUp (owRelease s))
  | .rSmp =>
    let (v, t) := sample Config.lineOw s
    spend 0 .rRec (t.setSeq { t.seq with sh := setByteBit t.seq.sh 0 v })
  | .rRec =>
    let t := spend s.cfg.tRstrec .idle s
    finish (zextBit (1 - byteBit t.seq.sh 0)) t
  | .wLow => spend (writeLow s.cfg s.curWriteBit) .wRel (owDriveLow s)
  | .wRel =>
    let t := spend (s.cfg.tWslot - writeLow s.cfg s.curWriteBit) .wRel (owRelease s)
    if t.lastSlot then finish 0 t else nextSlot .wLow t
  | .rdInit => spend s.cfg.tRinit .rdWait (owDriveLow s)
  | .rdWait => spend s.cfg.tRwait .rdSmp (owRelease s)
  | .rdSmp => spend 0 .rdRec (sampleIntoSh s)
  | .rdRec =>
    let t := spend (readTail s.cfg) .rdRec s
    if t.lastSlot then finish (zextByte t.seq.sh) t else nextSlot .rdInit t
  | .pHigh => spend (cellHigh s.cfg s.curPixelBit) .pLow (drive Config.linePx .output 1 s)
  | .pLow => afterPixelBit (spend (cellLow s.cfg s.curPixelBit) .pLow (drive Config.linePx .output 0 s))
  | .pLatch => finish 0 (spend s.cfg.tLatch .pLatch (drive Config.linePx .output 0 s))

/-- At most `k` phase steps, stopping in `IDLE`. -/
def phaseRun : Nat → State → State
  | 0, s => s
  | k + 1, s => if s.seq.phase = .idle then s else phaseRun k (phaseStep s)

/-- How many phases a timed command takes (R160, R212). -/
def phaseCount (i : Instr) (s : State) : Nat :=
  match i with
  | .owReset => 4
  | .owWriteBit _ => 2
  | .owReadBit => 4
  | .owWriteByte _ => 16
  | .owReadByte => 32
  | .pxWrite => 48 * s.px.n.toNat + 1
  | .nowMs | .nowUs | .elapsedMs _ | .elapsedUs _ | .tmStart | .tmElapsed => 0
  | .dlSetDir _ _ | .dlSetPull _ _ | .dlWrite _ _ | .dlRead _ => 0
  | .pxInit _ | .pxSet _ _ _ _ | .pxFill _ _ _ => 0
  | .svAngle _ | .svPulse _ | .dbInit _ _ _ | .dbRead _ _ => 0
  | .maInit _ | .maAdd _ | .maAvg | .maReset => 0

/-- The row `IDLE` for PX_WRITE (R212). -/
def startPixel (s : State) : State :=
  match (s.line Config.linePx).dir with
  | .input => raise .invalidState s
  | .output =>
    if s.px.n = 0 then s.setSeq { Sequencer.atRest with phase := .pLatch }
    else s.setSeq { Sequencer.atRest with phase := .pHigh, pxPix := 0, pxChan := 0, pxBit := 7 }

/-- The row `IDLE` of both tables: a timed command enters its first phase, an untimed command runs at once. -/
def startCommand (i : Instr) (s : State) : Host.Outcome State Fault Refusal :=
  match i with
  | .owReset => .next (s.setSeq { Sequencer.atRest with phase := .rLow, owOp := .reset })
  | .owWriteBit _ => .next (s.setSeq { Sequencer.atRest with phase := .wLow, owOp := .wbit })
  | .owReadBit => .next (s.setSeq { Sequencer.atRest with phase := .rdInit, owOp := .rbit })
  | .owWriteByte byte => .next (s.setSeq { Sequencer.atRest with phase := .wLow, owOp := .wbyte, sh := byte })
  | .owReadByte => .next (s.setSeq { Sequencer.atRest with phase := .rdInit, owOp := .rbyte })
  | .pxWrite => .next (startPixel s)
  | .nowMs | .nowUs | .elapsedMs _ | .elapsedUs _ | .tmStart | .tmElapsed => exec i s
  | .dlSetDir _ _ | .dlSetPull _ _ | .dlWrite _ _ | .dlRead _ => exec i s
  | .pxInit _ | .pxSet _ _ _ _ | .pxFill _ _ _ => exec i s
  | .svAngle _ | .svPulse _ | .dbInit _ _ _ | .dbRead _ _ => exec i s
  | .maInit _ | .maAdd _ | .maAvg | .maReset => exec i s

end Sys2Proof.Machine
end

