-- ==== Sys2Proof/Machine/Wave.lean ====
section
/-! DEFINITION. What can be read off the event log (10_state R40, R41; 42_onewire R167): the waveform of a line, the time
the log spans, the samples it holds. No command reads the log. -/

namespace Sys2Proof.Machine

/-- Put one run in front of a run-length list; equal neighbours merge (R41). -/
def pushRun (p : Pad) (d : Nat) : List (Pad × Nat) → List (Pad × Nat)
  | [] => [(p, d)]
  | (q, e) :: rest => if p = q then (p, d + e) :: rest else (p, d) :: (q, e) :: rest

/-- The waveform of line `l` that a list of events gives from the pad state `cur` (R41). -/
def wave (l : Nat) (cur : Pad) : List Event → List (Pad × Nat)
  | [] => []
  | .drive k p :: es => wave l (if k = l then p else cur) es
  | .wait d :: es => pushRun cur d (wave l cur es)
  | .pull _ _ :: es => wave l cur es
  | .sample _ _ _ :: es => wave l cur es

/-- The pad state of line `l` after a list of events, from the pad state `cur` (R40). -/
def padAfter (l : Nat) (cur : Pad) : List Event → Pad
  | [] => cur
  | .drive k p :: es => padAfter l (if k = l then p else cur) es
  | .wait _ :: es => padAfter l cur es
  | .pull _ _ :: es => padAfter l cur es
  | .sample _ _ _ :: es => padAfter l cur es

/-- The nanoseconds a list of events spans. -/
def logTime : List Event → Nat
  | [] => 0
  | .wait d :: es => d + logTime es
  | .drive _ _ :: es => logTime es
  | .pull _ _ :: es => logTime es
  | .sample _ _ _ :: es => logTime es

/-- How many samples a list of events holds. -/
def sampleCount : List Event → Nat
  | [] => 0
  | .sample _ _ _ :: es => sampleCount es + 1
  | .drive _ _ :: es => sampleCount es
  | .pull _ _ :: es => sampleCount es
  | .wait _ :: es => sampleCount es

/-- The length of the wait that follows each `Drive(l, L)` at once, in order (R167). -/
def lowTimes (l : Nat) : List Event → List Nat
  | .drive k .l :: .wait d :: es => if k = l then d :: lowTimes l es else lowTimes l es
  | .drive _ _ :: es => lowTimes l es
  | .wait _ :: es => lowTimes l es
  | .pull _ _ :: es => lowTimes l es
  | .sample _ _ _ :: es => lowTimes l es
  | [] => []

end Sys2Proof.Machine
end

