-- ==== Sys2Proof/Machine/Agents.lean ====
section
/-! DEFINITION. What one entry of the script `State.inputs` does: the command port (30_encoding R80, R81, R90), the idle
step (00_scope R9), the reset pin (70_reset_and_hazards R310, R311). -/

namespace Sys2Proof.Machine

/-- The response of the step before is over (R81). -/
def quiet (s : State) : State := { s with port := { s.port with rspValid := false } }

/-- Acceptance: the core reads `cmd` and `arg` in that cycle and no later (R81). -/
def acceptWords (cmd arg : Word) (s : State) : State := { s with port := { s.port with cmd := cmd, arg := arg } }

/-- Decode, then run the command whole; a word that is no legal encoding raises `ILLEGAL` (R90, R282). -/
def runCommand (cmd arg : Word) (s : State) : Host.Outcome State Fault Refusal :=
  match decode s.cfg cmd arg with
  | .ok i => exec i (acceptWords cmd arg s)
  | .error _ => .next (raise .illegal (acceptWords cmd arg s))

/-- Decode, then enter the command's first phase (R160, R212). -/
def runPhased (cmd arg : Word) (s : State) : Host.Outcome State Fault Refusal :=
  match decode s.cfg cmd arg with
  | .ok i => startCommand i (acceptWords cmd arg s)
  | .error _ => .next (raise .illegal (acceptWords cmd arg s))

/-- What is left of the environment's answers after `m` samples. -/
def dropAnswers (m : Nat) (s : State) : State :=
  { s with answers := s.answers.drop m, draws := s.draws + (m - s.answers.length) }

/-- `abort(S, cmd, k)` (R311): the first `k` events of the command, then the hardware reset. No response is given. -/
def cutCommand (cmd arg : Word) (k : Nat) (s : State) : Host.Outcome State Fault Refusal :=
  match runCommand cmd arg s with
  | .next t =>
    let done := (t.log.drop s.log.length).take k
    .next (hardReset (dropAnswers (sampleCount done)
      { s with log := s.log ++ done, time := s.time + logTime done }))
  | .fault r => .fault r
  | .refused r => .refused r

/-- One entry of the script, taken while the core is in `IDLE`. -/
def takeInput (inp : Input) (s : State) : Host.Outcome State Fault Refusal :=
  match inp with
  | .command cmd arg => runCommand cmd arg s
  | .phased cmd arg => runPhased cmd arg s
  | .idle d => .next (idleFor d s)
  | .hardReset => .next (hardReset s)
  | .abort cmd arg k => cutCommand cmd arg k s

/-- Nothing is scripted: the environment lets a time of its own choice pass (R9, U3). -/
def freeIdle (s : State) : State :=
  idleFor (Config.oracleIdle s.draws) { s with draws := s.draws + 1 }

/-- The core is in `IDLE`: the next entry of the script. -/
def idleStep (s : State) : Host.Outcome State Fault Refusal :=
  match s.inputs with
  | [] => .next (freeIdle s)
  | inp :: rest => takeInput inp { s with inputs := rest }

/-- A command is running phase by phase: `cmd_ready` is 0 and the script waits (R81), but the reset pin acts at once
(R311). -/
def busyStep (s : State) : Host.Outcome State Fault Refusal :=
  match s.inputs with
  | .hardReset :: rest => .next (hardReset { s with inputs := rest })
  | [] | .command _ _ :: _ | .phased _ _ :: _ | .idle _ :: _ | .abort _ _ _ :: _ => .next (phaseStep s)

end Sys2Proof.Machine
end

