-- ==== Sys2Proof/Machine/Step.lean ====
section
/-! DEFINITION. One step of the whole machine, and where a command is placed for the next step to run it
(notes/assumptions/3.md). -/

namespace Sys2Proof.Machine

/-- One step. The cycle of a pending response ends first; then, where `cmd_ready` is 1, the next entry of the script is
taken, else the running command does its next phase (R81). -/
def step (s : State) : Host.Outcome State Fault Refusal :=
  if (quiet s).cmdReady then idleStep (quiet s) else busyStep (quiet s)

/-- `s` with a command at the head of the script and the sequencer in `IDLE`, so that the very next step runs it. -/
def State.withFetchWord (s : State) (nbits w : Nat) : State :=
  { s with
    seq := Sequencer.atRest
    inputs := .command (tableCmd nbits w) (tableArg nbits w) :: s.inputs }

end Sys2Proof.Machine
end

