-- ==== Sys2Proof/Safety.lean ====
section
/-! DEFINITION. What claims about this machine speak of: the invariant of every step, what a safe log is, and the shapes
of a response. -/

namespace Sys2Proof.Machine

/-! ### Responses -/

/-- `t` carries an `OK` response with this data (R84, R85), its port otherwise as that of `s`. -/
def OkResponse (s t : State) (data : Word) : Prop :=
  t.port = { s.port with rspStatus := 0, rspData := data, rspValid := true }

/-- `t` carries the response of an exception with this code: data 0 (R280, R283). -/
def ErrResponse (s t : State) (code : BitVec 4) : Prop :=
  t.port = { s.port with rspStatus := code, rspData := 0, rspValid := true }

/-- Nothing but the port registers differs: the record `S` of the spec is exactly as it was (R283). -/
def OnlyPort (s t : State) : Prop := t = { s with port := t.port }

/-! ### The invariant -/

/-- The Tick registers hold `W`-bit values (R25, R30). -/
def ticksLegal (s : State) : Prop :=
  s.tmStart.toNat < 2 ^ s.cfg.tickBits ∧ s.db.last.toNat < 2 ^ s.cfg.tickBits

/-- The sequencer registers are ones the tables of R160 and R212 can leave between two phase steps, and all are at rest
in `IDLE` (R21); a phase that samples finds line 0 released (R27 a), a pixel phase finds line 1 an output (R208). -/
def seqLegal (s : State) : Prop :=
  match s.seq.phase with
  | .idle => s.seq = Sequencer.atRest
  | .rLow | .rWait | .rRec => s.seq.owOp = .reset ∧ s.seq.cnt = 0
  | .rSmp => s.seq.owOp = .reset ∧ s.seq.cnt = 0 ∧ (s.line Config.lineOw).dir = .input
  | .wLow | .wRel => (s.seq.owOp = .wbit ∨ s.seq.owOp = .wbyte) ∧ s.seq.cnt = 0
  | .rdInit | .rdWait | .rdRec => (s.seq.owOp = .rbit ∨ s.seq.owOp = .rbyte) ∧ s.seq.cnt = 0
  | .rdSmp =>
    (s.seq.owOp = .rbit ∨ s.seq.owOp = .rbyte) ∧ s.seq.cnt = 0 ∧ (s.line Config.lineOw).dir = .input
  | .pHigh | .pLow =>
    s.seq.pxPix.toNat < s.px.n.toNat ∧ s.seq.pxChan.toNat ≤ 2 ∧ s.seq.cnt = 0 ∧
      (s.line Config.linePx).dir = .output
  | .pLatch => s.seq.cnt = 0 ∧ (s.line Config.linePx).dir = .output

/-- The invariant of the machine: the configuration is one R6 allows, there is one set of registers per line, the two
memories have their canonical form, Ticks and status codes stay in range, the sequencer is where its tables allow. -/
structure Inv (s : State) : Prop where
  params : s.cfg.valid
  lineCount : s.lines.length = s.cfg.numLines
  memory : Memory.wf s
  ticks : ticksLegal s
  sequencer : seqLegal s
  status : s.port.rspStatus.toNat ≤ 2

/-! ### Safe logs -/

/-- Every sample of line `l` in the events was taken while its pad was released (R27 a), from the pad state `cur`. -/
def samplesReleased (l : Nat) (cur : Pad) : List Event → Prop
  | [] => True
  | .drive k p :: es => samplesReleased l (if k = l then p else cur) es
  | .sample k _ _ :: es => (k = l → cur = .z) ∧ samplesReleased l cur es
  | .wait _ :: es => samplesReleased l cur es
  | .pull _ _ :: es => samplesReleased l cur es

/-- The log tells the truth about the pads, and no line was ever sampled while the core drove it (R27 a, R40, R135). -/
def logFaithful (s : State) : Prop :=
  ∀ l, padAfter l .z s.log = (s.line l).pad ∧ samplesReleased l .z s.log

/-- Every wait the log records has a positive length (R40). -/
def waitsPositive (es : List Event) : Prop := ∀ d, Event.wait d ∈ es → 0 < d

end Sys2Proof.Machine

/-! ### The spec's own words for what a command sends and returns

Written from the rules alone, without the meanings of `Machine/`, so that statements can compare the two. -/

namespace Sys2Proof.Spec

open Machine (State Fault Refusal)

/-- The events of `wait(d)` (R11). -/
def waited (d : Nat) : List Event := if d = 0 then [] else [.wait d]

/-- The table of R136. -/
def levelOf (a : EnvAnswer) (pull : Pull) : Bit :=
  match a.ext, pull with
  | .l, _ => 0
  | .h, _ => 1
  | .z, .pullUp => 1
  | .z, .pullDown => 0
  | .z, .none => a.draw

/-- `as` are the environment's answers to the coming samples, as far as the state scripts them (R12); where it does
not, they are free. -/
def AnswersOf (s : State) (as : List EnvAnswer) : Prop :=
  ∀ k, k < s.answers.length → k < as.length → as[k]? = s.answers[k]?

/-- The events of OW_RESET (R151). -/
def owResetEvents (P : Config.Params) (a : EnvAnswer) : List Event :=
  [.drive 0 .l] ++ waited P.tRstl ++ [.drive 0 .z, .pull 0 .pullUp] ++ waited P.tPdwait ++
    [.sample 0 a.ext (levelOf a .pullUp)] ++ waited P.tRstrec

/-- The low time of a write slot (R152). -/
def lowTime (P : Config.Params) (bit : Bit) : Nat := if bit = 1 then P.tW1l else P.tW0l

/-- The events of a write slot (R152). -/
def writeSlotEvents (P : Config.Params) (bit : Bit) : List Event :=
  [.drive 0 .l] ++ waited (lowTime P bit) ++ [.drive 0 .z] ++ waited (P.tWslot - lowTime P bit)

/-- The events of a read slot (R153). -/
def readSlotEvents (P : Config.Params) (pull : Pull) (a : EnvAnswer) : List Event :=
  [.drive 0 .l] ++ waited P.tRinit ++ [.drive 0 .z] ++ waited P.tRwait ++
    [.sample 0 a.ext (levelOf a pull)] ++ waited (P.tRslot - P.tRinit - P.tRwait)

/-- The bits of a byte in the order of the wire of line 0 (R63). -/
def owBits (byte : Byte) : List Bit := (List.range 8).map (fun i => BitVec.ofBool (byte.getLsbD i))

/-- Bit number `j` of a frame (R206). -/
def frameBit (px : List Triplet) (j : Nat) : Bit :=
  let t := px.getD (j / 24) { r := 0, g := 0, b := 0 }
  let channel := [t.g, t.r, t.b].getD (j / 8 % 3) 0
  BitVec.ofBool (channel.getLsbD (7 - j % 8))

/-- The bits of a frame of `n` triplets (R206). -/
def frameBits (px : List Triplet) (n : Nat) : List Bit := (List.range (24 * n)).map (frameBit px)

/-- The events of one bit on the pixel line (R205). -/
def cellEvents (P : Config.Params) (v : Bit) : List Event :=
  [.drive 1 .h] ++ waited (if v = 1 then P.t1h else P.t0h) ++
    [.drive 1 .l] ++ waited (if v = 1 then P.t1l else P.t0l)

/-- The events of PX_WRITE (R204, R207). -/
def frameEvents (P : Config.Params) (px : List Triplet) (n : Nat) : List Event :=
  (frameBits px n).flatMap (cellEvents P) ++ [.drive 1 .l] ++ waited P.tLatch

/-- How many of the bits are 1 (R210). -/
def onesOf (bits : List Bit) : Nat := (bits.filter (fun v => v = 1)).length

/-- How many of the bits are 0 (R210). -/
def zerosOf (bits : List Bit) : Nat := (bits.filter (fun v => v = 0)).length

/-- The duration of a command that answers `OK` (R331, R163, R210). -/
def duration (s : State) : Instr → Nat
  | .owReset => s.cfg.tRstl + s.cfg.tPdwait + s.cfg.tRstrec
  | .owWriteBit _ => s.cfg.tWslot
  | .owReadBit => s.cfg.tRslot
  | .owWriteByte _ => 8 * s.cfg.tWslot
  | .owReadByte => 8 * s.cfg.tRslot
  | .pxWrite =>
    onesOf (frameBits s.px.entries s.px.n.toNat) * (s.cfg.t1h + s.cfg.t1l) +
      zerosOf (frameBits s.px.entries s.px.n.toNat) * (s.cfg.t0h + s.cfg.t0l) + s.cfg.tLatch
  | .nowMs | .nowUs | .elapsedMs _ | .elapsedUs _ | .tmStart | .tmElapsed => 0
  | .dlSetDir _ _ | .dlSetPull _ _ | .dlWrite _ _ | .dlRead _ => 0
  | .pxInit _ | .pxSet _ _ _ _ | .pxFill _ _ _ => 0
  | .svAngle _ | .svPulse _ | .dbInit _ _ _ | .dbRead _ _ => 0
  | .maInit _ | .maAdd _ | .maAvg | .maReset => 0

/-- `tdiff(a, b)` as a natural number (R10). -/
def tickDiff (P : Config.Params) (a b : Nat) : Nat := (((a : Int) - (b : Int)) % (2 ^ P.tickBits : Nat)).toNat

/-- Is the command one of the five single-wire commands (R150)? -/
def isOneWire : Instr → Bool
  | .owReset | .owWriteBit _ | .owReadBit | .owWriteByte _ | .owReadByte => true
  | .nowMs | .nowUs | .elapsedMs _ | .elapsedUs _ | .tmStart | .tmElapsed => false
  | .dlSetDir _ _ | .dlSetPull _ _ | .dlWrite _ _ | .dlRead _ => false
  | .pxInit _ | .pxSet _ _ _ _ | .pxFill _ _ _ | .pxWrite => false
  | .svAngle _ | .svPulse _ | .dbInit _ _ _ | .dbRead _ _ => false
  | .maInit _ | .maAdd _ | .maAvg | .maReset => false

/-! The writes of the table of R77: which command writes which part of the state. -/

/-- Does the command write the registers of line `k`? One line for the three writing DL commands, line 0 for the
single-wire commands, line 1 for PX_WRITE. -/
def writesLine : Instr → Nat → Bool
  | .dlSetDir line _, k => k == line.toNat
  | .dlSetPull line _, k => k == line.toNat
  | .dlWrite line _, k => k == line.toNat
  | .owReset, k | .owWriteBit _, k | .owReadBit, k | .owWriteByte _, k | .owReadByte, k => k == 0
  | .pxWrite, k => k == 1
  | .nowMs, _ | .nowUs, _ | .elapsedMs _, _ | .elapsedUs _, _ | .tmStart, _ | .tmElapsed, _ => false
  | .dlRead _, _ | .pxInit _, _ | .pxSet _ _ _ _, _ | .pxFill _ _ _, _ => false
  | .svAngle _, _ | .svPulse _, _ | .dbInit _ _ _, _ | .dbRead _ _, _ => false
  | .maInit _, _ | .maAdd _, _ | .maAvg, _ | .maReset, _ => false

/-- Does the command write the hidden time? -/
def writesTime : Instr → Bool
  | .owReset | .owWriteBit _ | .owReadBit | .owWriteByte _ | .owReadByte | .pxWrite => true
  | .nowMs | .nowUs | .elapsedMs _ | .elapsedUs _ | .tmStart | .tmElapsed => false
  | .dlSetDir _ _ | .dlSetPull _ _ | .dlWrite _ _ | .dlRead _ => false
  | .pxInit _ | .pxSet _ _ _ _ | .pxFill _ _ _ => false
  | .svAngle _ | .svPulse _ | .dbInit _ _ _ | .dbRead _ _ => false
  | .maInit _ | .maAdd _ | .maAvg | .maReset => false

/-- Does the command write the log? -/
def writesLog : Instr → Bool
  | .dlSetDir _ _ | .dlSetPull _ _ | .dlWrite _ _ | .dlRead _ => true
  | .owReset | .owWriteBit _ | .owReadBit | .owWriteByte _ | .owReadByte | .pxWrite => true
  | .nowMs | .nowUs | .elapsedMs _ | .elapsedUs _ | .tmStart | .tmElapsed => false
  | .pxInit _ | .pxSet _ _ _ _ | .pxFill _ _ _ => false
  | .svAngle _ | .svPulse _ | .dbInit _ _ _ | .dbRead _ _ => false
  | .maInit _ | .maAdd _ | .maAvg | .maReset => false

/-- Run commands one after the other through `exec`; `none` where one does not answer. -/
def runAll : List Instr → State → Option State
  | [], s => some s
  | i :: is, s =>
    match Machine.exec i s with
    | .next t => runAll is t
    | .fault _ => none
    | .refused _ => none

/-- A command word is illegal: the five cases of R88, on the numbers of the word. -/
def illegalWord (P : Config.Params) (cmd : Nat) : Prop :=
  let op := cmd / 2 ^ 24
  let a := cmd % 2 ^ 24
  let line := a / 2 ^ 8 % 2 ^ 8
  let val := a % 2 ^ 8
  -- 1. reserved opcodes
  (op ≤ 0x0F ∨ (0x16 ≤ op ∧ op ≤ 0x1F) ∨ (0x24 ≤ op ∧ op ≤ 0x2F) ∨ (0x35 ≤ op ∧ op ≤ 0x3F) ∨
    (0x44 ≤ op ∧ op ≤ 0x4F) ∨ (0x52 ≤ op ∧ op ≤ 0x5F) ∨ (0x62 ≤ op ∧ op ≤ 0x6F) ∨ 0x74 ≤ op) ∨
  -- 2. must-be-zero bits, format by format: Z, T and S; L and N; B1; B8; DR
  (op ∈ [0x10, 0x11, 0x12, 0x13, 0x14, 0x15, 0x30, 0x32, 0x34, 0x43, 0x50, 0x51, 0x71, 0x72, 0x73] ∧ a ≠ 0) ∨
  (op ∈ [0x20, 0x21, 0x22, 0x23, 0x40, 0x70] ∧ 2 ^ 16 ≤ a) ∨
  (op = 0x31 ∧ 2 ≤ a) ∨
  (op = 0x33 ∧ 2 ^ 8 ≤ a) ∨
  (op = 0x61 ∧ a % 2 ^ 23 ≠ 0) ∨
  -- 3. a line that does not exist
  (op ∈ [0x20, 0x21, 0x22, 0x23] ∧ P.numLines ≤ line) ∨
  -- 4. operand codes that name nothing
  (op = 0x20 ∧ 2 ≤ val) ∨ (op = 0x21 ∧ 3 ≤ val) ∨ (op = 0x22 ∧ 2 ≤ val) ∨ (op = 0x23 ∧ val ≠ 0) ∨
  -- 5. construction sizes above the capacity
  (op = 0x40 ∧ P.pxMax < a % 2 ^ 16) ∨ (op = 0x70 ∧ P.maMax < a % 2 ^ 16)

end Sys2Proof.Spec
end

