-- ==== Sys2Proof/Certificates/Slice0/Obligations.lean ====
section
/-! DEFINITION. The statements for the provers. Each docstring names the rule of spec/ it formalises; a clause that rests
on a choice of the model names the log entry. -/

open Sys2Proof Sys2Proof.Machine

/-! ### Encoding (30_encoding R82 to R90) -/

/-- One word of each family, written out from R83, R86 and R87, decodes to the command it stands for. -/
def Obligations.DecodeReadsWordsOfTheSpec : Prop :=
  let P := Config.Params.default
  decode P 0x11000000 0 = .ok .nowUs ∧
  decode P 0x12000000 0x00001324 = .ok (.elapsedMs 4900) ∧
  decode P 0x20000301 0 = .ok (.dlSetDir 3 .output) ∧
  decode P 0x21000202 0 = .ok (.dlSetPull 2 .pullDown) ∧
  decode P 0x31000001 0 = .ok (.owWriteBit 1) ∧
  decode P 0x330000A5 0 = .ok (.owWriteByte 0xA5) ∧
  decode P 0x41FF8000 1 = .ok (.pxSet 1 255 128 0) ∧
  decode P 0x50000000 0xFFFFFFF6 = .ok (.svAngle 0xFFFFFFF6) ∧
  decode P 0x60800032 1000 = .ok (.dbInit 1 50 1000) ∧
  decode P 0x61800000 1010 = .ok (.dbRead 1 1010) ∧
  decode P 0x70000003 0 = .ok (.maInit 3)

/-- Decoding the encoding of any well-formed command gives the command back, every operand at every value (R82, R83, R86,
R87). -/
def Obligations.EncodedCommandsDecodeBack : Prop :=
  ∀ (P : Config.Params) (i : Instr), i.wellFormed P = true →
    decode P (encode i).1 (encode i).2 = .ok i

/-- Every legal word is the encoding of the command it decodes to, `ARG` counting only in the formats that read it (R82,
R83, R88): no legal word is a second name of another. -/
def Obligations.DecodedWordsEncodeBack : Prop :=
  ∀ (P : Config.Params) (cmd arg : Word) (i : Instr), decode P cmd arg = .ok i →
    i.wellFormed P = true ∧ (encode i).1 = cmd ∧
      (encode i).2 = if i.opcode.format.readsArg then arg else 0

/-- A command word is illegal in exactly the cases of R88, whatever `ARG` is, and then the command responds `ILLEGAL` with no
other effect: only the port registers differ. -/
def Obligations.IllegalWordsAreThoseOfTheSpec : Prop :=
  (∀ (P : Config.Params) (cmd arg : Word),
    Spec.illegalWord P cmd.toNat ↔ ∃ e, decode P cmd arg = .error e) ∧
  (∀ (s : State) (cmd arg : Word), Spec.illegalWord s.cfg cmd.toNat →
    runCommand cmd arg s = .next { s with
      port := { cmd := cmd, arg := arg, rspStatus := 2, rspData := 0, rspValid := true } })

/-! ### Steps (00_scope R9; 30_encoding R81; 70_reset_and_hazards R310, R311) -/

/-- Where the core is in `IDLE` and the host's next command decodes to `i`, one step is `exec i` at the state with the
command latched in the port registers, the response of the step before over, and the command taken off the script; where
it does not decode, the step takes the exception `ILLEGAL` at that state (R81, R90, R282; the script is the model's own:
notes/assumptions/3.md). -/
def Obligations.StepRunsTheDecodedCommand : Prop :=
  ∀ (s : State) (cmd arg : Word) (rest : List Input), s.seq.phase = .idle →
    s.inputs = .command cmd arg :: rest →
    (∀ i, decode s.cfg cmd arg = .ok i →
      step s = exec i { s with
        inputs := rest
        port := { s.port with cmd := cmd, arg := arg, rspValid := false } }) ∧
    (∀ e, decode s.cfg cmd arg = .error e →
      step s = .next (raise .illegal { s with
        inputs := rest
        port := { s.port with cmd := cmd, arg := arg, rspValid := false } }))

/-- `withFetchWord` places a command so that the very next step runs it, from any state (the model's way to load a
command: notes/assumptions/3.md). -/
def Obligations.PlacedTableWordRunsNext : Prop :=
  ∀ (s : State) (nbits w : Nat) (i : Instr),
    decode s.cfg (tableCmd nbits w) (tableArg nbits w) = .ok i →
    step (s.withFetchWord nbits w) = exec i { s with
      seq := Sequencer.atRest
      port := { s.port with cmd := tableCmd nbits w, arg := tableArg nbits w, rspValid := false } }

/-- An idle step of `d` nanoseconds adds `d` to the hidden time and `Wait(d)` to the log and changes nothing else of the
block; with nothing scripted the environment takes an idle step of some length (R9, R22). That `d = 0` logs nothing is
the reading of notes/assumptions/9.md; the script is the model's own (notes/assumptions/3.md). -/
def Obligations.IdleStepsOnlyPassTime : Prop :=
  (∀ (s : State) (d : Nat) (rest : List Input), s.seq.phase = .idle → s.inputs = .idle d :: rest →
    step s = .next { s with
      time := s.time + d
      log := s.log ++ Spec.waited d
      inputs := rest
      port := { s.port with rspValid := false } }) ∧
  (∀ s : State, s.seq.phase = .idle → s.inputs = [] →
    ∃ d, step s = .next { s with
      time := s.time + d
      log := s.log ++ Spec.waited d
      draws := s.draws + 1
      port := { s.port with rspValid := false } })

/-- The hardware reset, in any phase: every register at its value of R50, the hidden time kept, the log kept and extended
by `Drive(l, Z)` and `Pull(l, None)` for every line (R310). The order among the lines is notes/assumptions/8.md, the
reset value of `ow_op` notes/assumptions/7.md, `rspValid` notes/assumptions/6.md. -/
def Obligations.HardResetLeavesTheResetValues : Prop :=
  ∀ (s : State) (rest : List Input), s.inputs = .hardReset :: rest →
    ∃ (t : State) (es : List Event), step s = .next t ∧
      t.time = s.time ∧ t.cfg = s.cfg ∧ t.inputs = rest ∧ t.answers = s.answers ∧ t.draws = s.draws ∧
      t.tmStart = 0 ∧
      t.lines.length = s.cfg.numLines ∧ (∀ l, t.line l = { dir := .input, pull := .none, out := 0 }) ∧
      t.px.n = 0 ∧ t.px.entries = [] ∧
      t.db = { acc := 0, last := 0, thr := 0 } ∧
      t.ma.size = 0 ∧ t.ma.buf = [] ∧
      t.seq = { phase := .idle, owOp := .none, bitidx := 0, sh := 0, pxPix := 0, pxChan := 0, pxBit := 0, cnt := 0 } ∧
      t.port = { cmd := 0, arg := 0, rspStatus := 0, rspData := 0, rspValid := false } ∧
      t.cmdReady = true ∧
      t.log = s.log ++ es ∧ es.length = 2 * s.cfg.numLines ∧
      (∀ l, l < s.cfg.numLines → .drive l .z ∈ es ∧ .pull l .none ∈ es)

/-- A reset that falls inside a command keeps the first `k` events of the command and their time, gives no response and
leaves the reset values (R311, in the atomic form the rule gives); on a word that is no legal encoding it finds no event
to keep. That the cut falls between two events is the model's choice, notes/assumptions/10.md, and so is the order of
the reset's own events in `resetEvents`, notes/assumptions/8.md. -/
def Obligations.ResetCutsACommandShort : Prop :=
  (∀ (s u : State) (cmd arg : Word) (k : Nat) (rest : List Input) (i : Instr) (es : List Event),
    s.seq.phase = .idle → s.inputs = .abort cmd arg k :: rest → decode s.cfg cmd arg = .ok i →
    exec i { s with
      inputs := rest
      port := { s.port with cmd := cmd, arg := arg, rspValid := false } } = .next u →
    u.log = s.log ++ es →
    ∃ t, step s = .next t ∧
      t.time = s.time + logTime (es.take k) ∧
      t.log = s.log ++ es.take k ++ resetEvents s.cfg.numLines ∧
      t.inputs = rest ∧ t.answers = s.answers.drop (sampleCount (es.take k)) ∧
      t.port.rspValid = false ∧ t.seq = Sequencer.atRest ∧
      (∀ l, t.line l = { dir := .input, pull := .none, out := 0 }) ∧
      t = { State.powerOn s.cfg t.time with
        log := t.log, inputs := t.inputs, answers := t.answers, draws := t.draws }) ∧
  (∀ (s : State) (cmd arg : Word) (k : Nat) (rest : List Input) (e : DecodeError),
    s.seq.phase = .idle → s.inputs = .abort cmd arg k :: rest → decode s.cfg cmd arg = .error e →
    step s = .next { State.powerOn s.cfg s.time with
      log := s.log ++ resetEvents s.cfg.numLines
      inputs := rest
      answers := s.answers
      draws := s.draws })

/-- A command that the script presents to be run phase by phase is started by one step (or answered `ILLEGAL`); from then on
each step is one phase step, and the core takes no entry of the script but the reset: `cmd_ready` is 0 and the port
keeps the command it read at acceptance. After the response the sequencer is at rest and `cmd_ready` is still 0, the
response pending (R81, R160, R212; the script is the model's own: notes/assumptions/3.md, and the step as the length of
a pending response too: notes/assumptions/6.md). -/
def Obligations.BusyCoreHoldsBackTheScript : Prop :=
  (∀ (s : State) (cmd arg : Word) (rest : List Input), s.seq.phase = .idle →
    s.inputs = .phased cmd arg :: rest →
    (∀ i, decode s.cfg cmd arg = .ok i →
      step s = startCommand i { s with
        inputs := rest
        port := { s.port with cmd := cmd, arg := arg, rspValid := false } }) ∧
    (∀ e, decode s.cfg cmd arg = .error e →
      step s = .next (raise .illegal { s with
        inputs := rest
        port := { s.port with cmd := cmd, arg := arg, rspValid := false } }))) ∧
  (∀ s : State, s.seq.phase ≠ .idle → (∀ rest, s.inputs ≠ .hardReset :: rest) →
    s.cmdReady = false ∧
    ∃ t, step s = .next t ∧ t = phaseStep { s with port := { s.port with rspValid := false } } ∧
      t.inputs = s.inputs ∧ t.port.cmd = s.port.cmd ∧ t.port.arg = s.port.arg ∧
      t.cfg = s.cfg ∧ t.tmStart = s.tmStart ∧ t.px = s.px ∧ t.db = s.db ∧ t.ma = s.ma ∧
      (t.port.rspValid = true → t.seq = Sequencer.atRest ∧ t.port.rspStatus = 0 ∧ t.cmdReady = false))

/-! ### TimeBase and Timer (40_timebase) -/

/-- NOW_MS and NOW_US respond with the millisecond and the microsecond count of the hidden time modulo `2^W`, and write
nothing (R110, R111, R24). -/
def Obligations.NowCommandsReadTheTickCounters : Prop :=
  ∀ s : State, s.cfg.valid →
    (∃ t d, exec .nowMs s = .next t ∧ OnlyPort s t ∧ OkResponse s t d ∧
      d.toNat = s.time / 1000000 % 2 ^ s.cfg.tickBits) ∧
    (∃ t d, exec .nowUs s = .next t ∧ OnlyPort s t ∧ OkResponse s t d ∧
      d.toNat = s.time / 1000 % 2 ^ s.cfg.tickBits)

/-- ELAPSED_MS and ELAPSED_US respond with the wrapping difference of the counter and the low `W` bits of `ARG`, and write
nothing (R112, R113, R87 i). -/
def Obligations.ElapsedCommandsSubtractModuloTheWidth : Prop :=
  ∀ (s : State) (since : Word), s.cfg.valid →
    (∃ t d, exec (.elapsedMs since) s = .next t ∧ OnlyPort s t ∧ OkResponse s t d ∧
      (d.toNat : Int) = ((s.time / 1000000 : Nat) - (since.toNat : Int)) % (2 ^ s.cfg.tickBits : Nat)) ∧
    (∃ t d, exec (.elapsedUs since) s = .next t ∧ OnlyPort s t ∧ OkResponse s t d ∧
      (d.toNat : Int) = ((s.time / 1000 : Nat) - (since.toNat : Int)) % (2 ^ s.cfg.tickBits : Nat))

/-- TM_START captures the millisecond count, TM_ELAPSED responds with the wrapping difference since then and writes
nothing (R114, R115). -/
def Obligations.TimerStartsAndReads : Prop :=
  ∀ s : State, s.cfg.valid →
    (∃ t, exec .tmStart s = .next t ∧ OkResponse s t 0 ∧
      t.tmStart.toNat = s.time / 1000000 % 2 ^ s.cfg.tickBits ∧
      t = { s with tmStart := t.tmStart, port := t.port }) ∧
    (∃ t d, exec .tmElapsed s = .next t ∧ OnlyPort s t ∧ OkResponse s t d ∧
      (d.toNat : Int) = ((s.time / 1000000 : Nat) - (s.tmStart.toNat : Int)) % (2 ^ s.cfg.tickBits : Nat))

/-- The wraparound-safe difference of two Ticks of one counter is the number of ticks between them modulo `2^W`, and the
true number exactly when that is below `2^W` (R116).
The spec marks R116 as derived from R24 and R10. -/
def Obligations.TickDifferenceSurvivesTheWrap : Prop :=
  ∀ (P : Config.Params) (u Ta Tb : Nat), P.valid → (u = 1000 ∨ u = 1000000) → Ta ≤ Tb →
    (tdiff P (tickOfNat P (Tb / u)) (tickOfNat P (Ta / u))).toNat = (Tb / u - Ta / u) % 2 ^ P.tickBits ∧
    ((tdiff P (tickOfNat P (Tb / u)) (tickOfNat P (Ta / u))).toNat = Tb / u - Ta / u ↔
      Tb / u - Ta / u < 2 ^ P.tickBits)

/-- The number `n` of ticks a counter of unit `u` makes in `d` nanoseconds is `d div u` or one more, and exactly `d div u`
when `d` is a multiple of `u`; the difference of the two readings is `n` modulo `2^W` (R117).
The spec marks R117 as derived from R24. -/
def Obligations.TicksInADuration : Prop :=
  ∀ (P : Config.Params) (u T d : Nat), P.valid → (u = 1000 ∨ u = 1000000) →
    ∃ n, n = (T + d) / u - T / u ∧ (n = d / u ∨ n = d / u + 1) ∧ (d % u = 0 → n = d / u) ∧
      (tdiff P (tickOfNat P ((T + d) / u)) (tickOfNat P (T / u))).toNat = n % 2 ^ P.tickBits

/-- Exactly 100 ms after a TM_START a TM_ELAPSED responds 100, wherever the counter was; two TM_ELAPSED commands exactly
100 ms apart differ by 100 (R118). R118 has no premise on the width;
the premise `100 < 2^W` is the model's reading, notes/assumptions/18.md.
The spec marks R118 as derived from R115, R116 and R117. -/
def Obligations.TimerCountsAHundredMilliseconds : Prop :=
  (∀ s t u : State, s.cfg.valid → 100 < 2 ^ s.cfg.tickBits →
    exec .tmStart s = .next t → u = { t with time := t.time + 100000000 } →
    ∃ v, exec .tmElapsed u = .next v ∧ v.port.rspStatus = 0 ∧ v.port.rspData = 100) ∧
  (∀ s t u : State, s.cfg.valid → 100 < 2 ^ s.cfg.tickBits →
    exec .tmElapsed s = .next t → u = { t with time := t.time + 100000000 } →
    ∃ v, exec .tmElapsed u = .next v ∧ v.port.rspStatus = 0 ∧
      tdiff s.cfg v.port.rspData t.port.rspData = 100)

/-! ### DigitalLine (41_digital_line) -/

/-- DL_SET_DIR writes the direction of one line, keeps its pull and latch, and logs the pad state that follows: released as
an input, the latch's level as an output (R130). -/
def Obligations.DlSetDirDrivesOrReleases : Prop :=
  ∀ (s : State) (line : Byte) (dir : Dir), s.lines.length = s.cfg.numLines → line.toNat < s.cfg.numLines →
    ∃ t, exec (.dlSetDir line dir) s = .next t ∧ OkResponse s t 0 ∧
      t.line line.toNat = { (s.line line.toNat) with dir := dir } ∧
      (∀ k, k ≠ line.toNat → t.line k = s.line k) ∧
      t.log = s.log ++ [.drive line.toNat
        (if dir = .input then .z else if (s.line line.toNat).out = 0 then .l else .h)] ∧
      t = { s with lines := t.lines, log := t.log, port := t.port }

/-- DL_SET_PULL writes the pull of one line, in either direction, and logs it (R131). -/
def Obligations.DlSetPullSetsThePull : Prop :=
  ∀ (s : State) (line : Byte) (p : Pull), s.lines.length = s.cfg.numLines → line.toNat < s.cfg.numLines →
    ∃ t, exec (.dlSetPull line p) s = .next t ∧ OkResponse s t 0 ∧
      t.line line.toNat = { (s.line line.toNat) with pull := p } ∧
      (∀ k, k ≠ line.toNat → t.line k = s.line k) ∧
      t.log = s.log ++ [.pull line.toNat p] ∧
      t = { s with lines := t.lines, log := t.log, port := t.port }

/-- DL_WRITE on an output writes the latch and drives its level; on an input it responds `INVALID_STATE` and changes nothing
(R132). -/
def Obligations.DlWriteDrivesAnOutput : Prop :=
  ∀ (s : State) (line : Byte) (level : Bit), s.lines.length = s.cfg.numLines → line.toNat < s.cfg.numLines →
    ((s.line line.toNat).dir = .output →
      ∃ t, exec (.dlWrite line level) s = .next t ∧ OkResponse s t 0 ∧
        t.line line.toNat = { (s.line line.toNat) with out := level } ∧
        (∀ k, k ≠ line.toNat → t.line k = s.line k) ∧
        t.log = s.log ++ [.drive line.toNat (if level = 0 then .l else .h)] ∧
        t = { s with lines := t.lines, log := t.log, port := t.port }) ∧
    ((s.line line.toNat).dir = .input →
      ∃ t, exec (.dlWrite line level) s = .next t ∧ ErrResponse s t 1 ∧ OnlyPort s t)

/-- DL_READ on an input responds with the level of R136: the environment's answer `a`, scripted or free, resolved with the
line's pull, any bit on a floating line; it writes no register. On an output it responds `INVALID_STATE` (R133, R136). -/
def Obligations.DlReadSamplesAnInput : Prop :=
  ∀ (s : State) (line : Byte), line.toNat < s.cfg.numLines →
    ((s.line line.toNat).dir = .input →
      ∃ t a, exec (.dlRead line) s = .next t ∧ Spec.AnswersOf s [a] ∧
        OkResponse s t (if Spec.levelOf a (s.line line.toNat).pull = 1 then 1 else 0) ∧
        t.log = s.log ++ [.sample line.toNat a.ext (Spec.levelOf a (s.line line.toNat).pull)] ∧
        t.answers = s.answers.drop 1 ∧
        t = { s with log := t.log, answers := t.answers, draws := t.draws, port := t.port }) ∧
    ((s.line line.toNat).dir = .output →
      ∃ t, exec (.dlRead line) s = .next t ∧ ErrResponse s t 1 ∧ OnlyPort s t)

/-! ### OneWireBus (42_onewire) -/

/-- OW_RESET: the events of R151 in order, presence 1 exactly when the sample was low, line 0 left released with the pull-up
and latch 0, the other lines and every other register untouched. -/
def Obligations.OwResetDetectsPresence : Prop :=
  ∀ s : State, s.cfg.valid → s.lines.length = s.cfg.numLines →
    ∃ t a, exec .owReset s = .next t ∧ Spec.AnswersOf s [a] ∧
      OkResponse s t (if Spec.levelOf a .pullUp = 0 then 1 else 0) ∧
      t.log = s.log ++ Spec.owResetEvents s.cfg a ∧
      t.time = s.time + (s.cfg.tRstl + s.cfg.tPdwait + s.cfg.tRstrec) ∧
      t.line 0 = { dir := .input, pull := .pullUp, out := 0 } ∧
      (∀ k, k ≠ 0 → t.line k = s.line k) ∧
      t.answers = s.answers.drop 1 ∧
      t = { s with time := t.time, log := t.log, lines := t.lines, port := t.port,
                   answers := t.answers, draws := t.draws }

/-- OW_WRITE_BIT: one write slot, narrow low for a 1 and wide low for a 0, `T_WSLOT` in all; line 0 left released with its
pull kept, nothing sampled, nothing else written (R152). -/
def Obligations.OwWriteBitSendsOneSlot : Prop :=
  ∀ (s : State) (bit : Bit), s.cfg.valid → s.lines.length = s.cfg.numLines →
    ∃ t, exec (.owWriteBit bit) s = .next t ∧ OkResponse s t 0 ∧
      t.log = s.log ++ Spec.writeSlotEvents s.cfg bit ∧
      t.time = s.time + s.cfg.tWslot ∧
      t.line 0 = { dir := .input, pull := (s.line 0).pull, out := 0 } ∧
      (∀ k, k ≠ 0 → t.line k = s.line k) ∧
      t = { s with time := t.time, log := t.log, lines := t.lines, port := t.port }

/-- OW_READ_BIT: one read slot, the level sampled as the response, `T_RSLOT` in all; line 0 left released with its pull kept
(R153). -/
def Obligations.OwReadBitReadsOneSlot : Prop :=
  ∀ s : State, s.cfg.valid → s.lines.length = s.cfg.numLines →
    ∃ t a, exec .owReadBit s = .next t ∧ Spec.AnswersOf s [a] ∧
      OkResponse s t (if Spec.levelOf a (s.line 0).pull = 1 then 1 else 0) ∧
      t.log = s.log ++ Spec.readSlotEvents s.cfg (s.line 0).pull a ∧
      t.time = s.time + s.cfg.tRslot ∧
      t.line 0 = { dir := .input, pull := (s.line 0).pull, out := 0 } ∧
      (∀ k, k ≠ 0 → t.line k = s.line k) ∧
      t.answers = s.answers.drop 1 ∧
      t = { s with time := t.time, log := t.log, lines := t.lines, port := t.port,
                   answers := t.answers, draws := t.draws }

/-- OW_WRITE_BYTE: eight write slots back to back, bit 0 first, `8 * T_WSLOT` in all (R154, R63). -/
def Obligations.OwWriteByteSendsEightSlots : Prop :=
  ∀ (s : State) (byte : Byte), s.cfg.valid → s.lines.length = s.cfg.numLines →
    ∃ t, exec (.owWriteByte byte) s = .next t ∧ OkResponse s t 0 ∧
      t.log = s.log ++ (Spec.owBits byte).flatMap (Spec.writeSlotEvents s.cfg) ∧
      t.time = s.time + 8 * s.cfg.tWslot ∧
      t.line 0 = { dir := .input, pull := (s.line 0).pull, out := 0 } ∧
      (∀ k, k ≠ 0 → t.line k = s.line k) ∧
      t = { s with time := t.time, log := t.log, lines := t.lines, port := t.port }

/-- OW_READ_BYTE: eight read slots back to back, bit `i` of the response the level of slot `i`, bits 31 to 8 zero,
`8 * T_RSLOT` in all (R155, R63). -/
def Obligations.OwReadByteReadsEightSlots : Prop :=
  ∀ s : State, s.cfg.valid → s.lines.length = s.cfg.numLines →
    ∃ t as d, exec .owReadByte s = .next t ∧ as.length = 8 ∧ Spec.AnswersOf s as ∧
      OkResponse s t d ∧ d.toNat < 256 ∧
      (∀ i, i < 8 → d.getLsbD i = decide ((as[i]?.map fun a => Spec.levelOf a (s.line 0).pull) = some 1)) ∧
      t.log = s.log ++ as.flatMap (Spec.readSlotEvents s.cfg (s.line 0).pull) ∧
      t.time = s.time + 8 * s.cfg.tRslot ∧
      t.line 0 = { dir := .input, pull := (s.line 0).pull, out := 0 } ∧
      (∀ k, k ≠ 0 → t.line k = s.line k) ∧
      t.answers = s.answers.drop 8 ∧
      t = { s with time := t.time, log := t.log, lines := t.lines, port := t.port,
                   answers := t.answers, draws := t.draws }

/-- A byte command leaves what eight bit commands leave with no idle time between them: OW_WRITE_BYTE the very same state,
OW_READ_BYTE the same but for the response (R154, R155, R92). -/
def Obligations.OwByteIsEightBitCommands : Prop :=
  (∀ (s : State) (byte : Byte), ∃ t, exec (.owWriteByte byte) s = .next t ∧
    Spec.runAll ((Spec.owBits byte).map Instr.owWriteBit) s = some t) ∧
  (∀ s : State, ∃ t u, exec .owReadByte s = .next t ∧
    Spec.runAll (List.replicate 8 Instr.owReadBit) s = some u ∧ u = { t with port := u.port })

/-- After any of the five single-wire commands line 0 is released with latch 0; OW_RESET leaves the pull-up, the others the
pull as it was; a sequencer that was at rest is at rest (R159).
The spec marks R159 as derived from R151 to R155. -/
def Obligations.OwLeavesLineZeroReleased : Prop :=
  ∀ (i : Instr) (s : State), Spec.isOneWire i = true → s.cfg.valid → s.lines.length = s.cfg.numLines →
    s.seq = Sequencer.atRest →
    ∃ t, exec i s = .next t ∧ (t.line 0).dir = .input ∧ (t.line 0).out = 0 ∧
      (t.line 0).pull = (if i = .owReset then .pullUp else (s.line 0).pull) ∧
      t.seq = Sequencer.atRest

/-- No single-wire command responds `INVALID_STATE`, whatever state line 0 is in (R158): each one responds `OK`.
The spec marks R158 as derived from R151 to R156. -/
def Obligations.OwNeverRaisesInvalidState : Prop :=
  ∀ (i : Instr) (s : State), Spec.isOneWire i = true →
    ∃ t, exec i s = .next t ∧ t.port.rspStatus = 0

/-- The events of a single-wire command touch line 0 alone and never drive it high (R156, R27 b, R326). -/
def Obligations.OwTouchesLineZeroAloneNeverHigh : Prop :=
  ∀ (i : Instr) (s : State), Spec.isOneWire i = true → s.cfg.valid → s.lines.length = s.cfg.numLines →
    ∃ t es, exec i s = .next t ∧ t.log = s.log ++ es ∧
      (∀ k p, .drive k p ∈ es → k = 0 ∧ p ≠ .h) ∧ (∀ k p, .pull k p ∈ es → k = 0 ∧ p = .pullUp) ∧
      (∀ k x v, .sample k x v ∈ es → k = 0) ∧ (∀ k, k ≠ 0 → t.line k = s.line k)

/-- From the events of an OW_WRITE_BYTE the byte can be read back: the wait after the `i`-th `Drive(0, L)` is `T_W1L`
exactly when bit `i` is 1 and `T_W0L` exactly when it is 0 (R167).
The spec marks R167 as derived from R154. -/
def Obligations.OwWrittenByteCanBeReadBack : Prop :=
  ∀ (s : State) (byte : Byte), s.cfg.valid → s.lines.length = s.cfg.numLines →
    ∃ t es, exec (.owWriteByte byte) s = .next t ∧ t.log = s.log ++ es ∧
      (lowTimes 0 es).length = 8 ∧
      (∀ i, i < 8 → ((lowTimes 0 es)[i]? = some s.cfg.tW1l ↔ byte.getLsbD i = true)) ∧
      (∀ i, i < 8 → ((lowTimes 0 es)[i]? = some s.cfg.tW0l ↔ byte.getLsbD i = false))

/-- OW_RESET responds 1 when the environment answers `L` at its sample and 0 when it answers `H` or `Z`: the pull-up the
command has set holds the line high (R165).
The spec marks R165 as derived from R151 and R136. -/
def Obligations.OwPresenceIsTheLowSample : Prop :=
  ∀ (s : State) (a : EnvAnswer) (rest : List EnvAnswer), s.cfg.valid → s.lines.length = s.cfg.numLines →
    s.answers = a :: rest →
    ∃ t, exec .owReset s = .next t ∧ t.port.rspStatus = 0 ∧
      (a.ext = .l → t.port.rspData = 1) ∧ (a.ext = .h ∨ a.ext = .z → t.port.rspData = 0)

/-! ### PixelBuffer and PixelBus (43_pixel) -/

/-- PX_INIT builds a buffer of `n` black entries, whatever was there before; a size above the capacity is `ILLEGAL` and
changes nothing (R201, R88). -/
def Obligations.PxInitBuildsABlackBuffer : Prop :=
  ∀ (s : State) (n : BitVec 16),
    (n.toNat ≤ s.cfg.pxMax →
      ∃ t, exec (.pxInit n) s = .next t ∧ OkResponse s t 0 ∧ t.px.n = n ∧
        (∀ j, t.pixelAt j = if j < n.toNat then some { r := 0, g := 0, b := 0 } else none) ∧
        t = { s with px := t.px, port := t.port }) ∧
    (s.cfg.pxMax < n.toNat →
      ∃ t, exec (.pxInit n) s = .next t ∧ ErrResponse s t 2 ∧ OnlyPort s t)

/-- PX_SET stores one triplet at the index and leaves every other entry; at or beyond `px_n` it is a silent no-op, `OK`
either way (R202). -/
def Obligations.PxSetStoresOneTriplet : Prop :=
  ∀ (s : State) (index : Word) (r g b : Byte), s.px.entries.length = s.px.n.toNat →
    ∃ t, exec (.pxSet index r g b) s = .next t ∧ OkResponse s t 0 ∧ t.px.n = s.px.n ∧
      (index.toNat < s.px.n.toNat → t.pixelAt index.toNat = some { r := r, g := g, b := b }) ∧
      (∀ j, j ≠ index.toNat → t.pixelAt j = s.pixelAt j) ∧
      (s.px.n.toNat ≤ index.toNat → t.px = s.px) ∧
      t = { s with px := t.px, port := t.port }

/-- PX_FILL stores one triplet at every index below `px_n`, transmits nothing and keeps the length (R203). -/
def Obligations.PxFillStoresEveryTriplet : Prop :=
  ∀ (s : State) (r g b : Byte),
    ∃ t, exec (.pxFill r g b) s = .next t ∧ OkResponse s t 0 ∧ t.px.n = s.px.n ∧
      (∀ j, t.pixelAt j = if j < s.px.n.toNat then some { r := r, g := g, b := b } else none) ∧
      t = { s with px := t.px, port := t.port }

/-- PX_WRITE with line 1 an output sends the bits of the buffer in the order of R206, each as the pulse pair of R205, then
the latch gap of R207; line 1 stays an output with latch 0, the buffer and everything else is unchanged (R204, R209). -/
def Obligations.PxWriteSendsTheFrame : Prop :=
  ∀ s : State, s.cfg.valid → s.lines.length = s.cfg.numLines → (s.line 1).dir = .output →
    ∃ t, exec .pxWrite s = .next t ∧ OkResponse s t 0 ∧
      t.log = s.log ++ Spec.frameEvents s.cfg s.px.entries s.px.n.toNat ∧
      t.time = s.time + logTime (Spec.frameEvents s.cfg s.px.entries s.px.n.toNat) ∧
      t.line 1 = { dir := .output, pull := (s.line 1).pull, out := 0 } ∧
      (∀ k, k ≠ 1 → t.line k = s.line k) ∧
      t = { s with time := t.time, log := t.log, lines := t.lines, port := t.port }

/-- PX_WRITE with line 1 an input responds `INVALID_STATE` and emits nothing, whatever the buffer holds (R208). -/
def Obligations.PxWriteNeedsAnOutput : Prop :=
  ∀ s : State, (s.line 1).dir = .input →
    ∃ t, exec .pxWrite s = .next t ∧ ErrResponse s t 1 ∧ OnlyPort s t

/-- With one entry, line 1 an output and low at acceptance, the waveform PX_WRITE adds to line 1 is exactly 24 `H` runs,
each followed by an `L` run, the last at least `T_LATCH_MIN` long, and no `H` run after it (R214).
The spec marks R214 as derived from R204, R207 and R41. -/
def Obligations.PxFrameHasTwentyFourPulses : Prop :=
  ∀ s : State, s.cfg.valid → s.lines.length = s.cfg.numLines → (s.line 1).dir = .output → (s.line 1).out = 0 →
    s.px.n = 1 →
    ∃ t es, exec .pxWrite s = .next t ∧ t.log = s.log ++ es ∧
      (wave 1 .l es).length = 48 ∧
      (∀ k, k < 24 → ((wave 1 .l es)[2 * k]?).map Prod.fst = some .h ∧
        ((wave 1 .l es)[2 * k + 1]?).map Prod.fst = some .l) ∧
      (∃ d, (wave 1 .l es)[47]? = some (.l, d) ∧ s.cfg.tLatchMin ≤ d) ∧
      padAfter 1 .l es = .l

/-! ### Durations (70_reset_and_hazards R330, R331) -/

/-- Every command advances the hidden time by exactly its duration: the sums of R163 for the single-wire commands, whatever
the operand and the samples, the bit count of R210 for PX_WRITE, 0 for every other command and for every error response
(R331).
The spec marks R331 as derived from the command rules. -/
def Obligations.DurationOfEveryCommand : Prop :=
  ∀ (i : Instr) (s : State), s.cfg.valid →
    ∃ t, exec i s = .next t ∧
      (t.port.rspStatus = 0 → t.time = s.time + Spec.duration s i) ∧
      (t.port.rspStatus ≠ 0 → t.time = s.time)

/-! ### ServoMapper (44_servo) -/

/-- SV_ANGLE and SV_PULSE clamp the signed operand to `[0, 180]` and `[0, PERIOD_US]` and scale it to `[0, MAX_DUTY]`,
rounding down; they write nothing (R230, R231). -/
def Obligations.ServoCommandsScaleAndClamp : Prop :=
  ∀ (s : State) (x : Word), s.cfg.valid →
    (∃ t d, exec (.svAngle x) s = .next t ∧ OnlyPort s t ∧ OkResponse s t d ∧
      (x.toInt < 0 → d.toNat = 0) ∧
      (0 ≤ x.toInt ∧ x.toInt ≤ 180 → d.toNat = x.toNat * s.cfg.maxDuty / 180) ∧
      (180 < x.toInt → d.toNat = s.cfg.maxDuty)) ∧
    (∃ t d, exec (.svPulse x) s = .next t ∧ OnlyPort s t ∧ OkResponse s t d ∧
      (x.toInt < 0 → d.toNat = 0) ∧
      (0 ≤ x.toInt ∧ x.toInt ≤ s.cfg.periodUs → d.toNat = x.toNat * s.cfg.maxDuty / s.cfg.periodUs) ∧
      ((s.cfg.periodUs : Int) < x.toInt → d.toNat = s.cfg.maxDuty))

/-- Both servo commands are monotone in the signed operand and bounded by `MAX_DUTY`, and hit both ends exactly (R232).
The spec marks R232 as derived from R230 and R231. -/
def Obligations.ServoIsMonotoneAndBounded : Prop :=
  ∀ (s : State) (x y : Word), s.cfg.valid → x.toInt ≤ y.toInt →
    (∃ t u, exec (.svAngle x) s = .next t ∧ exec (.svAngle y) s = .next u ∧
      t.port.rspStatus = 0 ∧ u.port.rspStatus = 0 ∧
      t.port.rspData.toNat ≤ u.port.rspData.toNat ∧ u.port.rspData.toNat ≤ s.cfg.maxDuty ∧
      (x.toInt = 0 → t.port.rspData.toNat = 0) ∧ (x.toInt = 180 → t.port.rspData.toNat = s.cfg.maxDuty)) ∧
    (∃ t u, exec (.svPulse x) s = .next t ∧ exec (.svPulse y) s = .next u ∧
      t.port.rspStatus = 0 ∧ u.port.rspStatus = 0 ∧
      t.port.rspData.toNat ≤ u.port.rspData.toNat ∧ u.port.rspData.toNat ≤ s.cfg.maxDuty ∧
      (x.toInt = 0 → t.port.rspData.toNat = 0) ∧
      (x.toInt = s.cfg.periodUs → t.port.rspData.toNat = s.cfg.maxDuty))

/-- SV_ANGLE with -10 answers what 0 answers, which is 0, and with 200 what 180 answers, which is `MAX_DUTY` (R233).
The spec marks R233 as derived from R230. -/
def Obligations.ServoClampsTheSpecExamples : Prop :=
  ∀ s : State, s.cfg.valid →
    (∃ t, exec (.svAngle (-10)) s = .next t ∧ exec (.svAngle 0) s = .next t ∧ OkResponse s t 0) ∧
    (∃ t d, exec (.svAngle 200) s = .next t ∧ exec (.svAngle 180) s = .next t ∧ OkResponse s t d ∧
      d.toNat = s.cfg.maxDuty)

/-! ### Debouncer (45_debouncer) -/

/-- DB_INIT adopts the level, the low `W` bits of `now` and the threshold, and nothing else (R245). -/
def Obligations.DbInitConstructs : Prop :=
  ∀ (s : State) (level : Bit) (thr : BitVec 23) (now : Word), s.cfg.valid →
    ∃ t, exec (.dbInit level thr now) s = .next t ∧ OkResponse s t 0 ∧
      t.db.acc = level ∧ t.db.last.toNat = now.toNat % 2 ^ s.cfg.tickBits ∧ t.db.thr = thr ∧
      t = { s with db := t.db, port := t.port }

/-- DB_READ commits a level that differs exactly when strictly more than the threshold has passed since the last commit,
else writes nothing; it responds with the accepted level after the observation (R246). -/
def Obligations.DbReadFiltersOneObservation : Prop :=
  ∀ (s : State) (level : Bit) (now : Word), s.cfg.valid →
    ∃ t, exec (.dbRead level now) s = .next t ∧
      OkResponse s t (if t.db.acc = 1 then 1 else 0) ∧
      (level ≠ s.db.acc ∧ s.db.thr.toNat < Spec.tickDiff s.cfg now.toNat s.db.last.toNat →
        t.db.acc = level ∧ t.db.last.toNat = now.toNat % 2 ^ s.cfg.tickBits ∧ t.db.thr = s.db.thr) ∧
      (level = s.db.acc ∨ Spec.tickDiff s.cfg now.toNat s.db.last.toNat ≤ s.db.thr.toNat → t.db = s.db) ∧
      t = { s with db := t.db, port := t.port }

/-- Hold-off: any run of observations all within the threshold of the last commit, at any levels, leaves the debouncer as
it was and every one of them reads the accepted level (R247 item 1).
The spec marks R247 as derived from R246. -/
def Obligations.DebouncerHoldsOff : Prop :=
  ∀ (obs : List (Bit × Word)) (s : State), s.cfg.valid →
    (∀ o, o ∈ obs → Spec.tickDiff s.cfg o.2.toNat s.db.last.toNat ≤ s.db.thr.toNat) →
    ∃ u, Spec.runAll (obs.map fun o => .dbRead o.1 o.2) s = some u ∧ u.db = s.db ∧
      (obs ≠ [] → u.port.rspData = if s.db.acc = 1 then 1 else 0)

/-- A sustained change is accepted exactly once: the first observation of the other level after the hold-off commits it, at
once, and any further observations of the same level, at any times, write nothing and read it (R247 items 2 to 4).
The spec marks R247 as derived from R246. -/
def Obligations.DebouncerAcceptsASustainedChangeOnce : Prop :=
  ∀ (s : State) (level : Bit) (now : Word) (later : List Word), s.cfg.valid → level ≠ s.db.acc →
    s.db.thr.toNat < Spec.tickDiff s.cfg now.toNat s.db.last.toNat →
    ∃ t u, exec (.dbRead level now) s = .next t ∧
      t.db.acc = level ∧ t.db.last.toNat = now.toNat % 2 ^ s.cfg.tickBits ∧
      Spec.runAll (later.map fun n => .dbRead level n) t = some u ∧ u.db = t.db ∧
      u.port.rspData = if level = 1 then 1 else 0

/-! ### MovingAverage (46_moving_average) -/

/-- MA_INIT sets the size and drops the samples; a size above the capacity is `ILLEGAL` and changes nothing. MA_RESET drops
the samples and keeps the size (R262, R264, R88). -/
def Obligations.MaInitAndResetEmptyTheWindow : Prop :=
  ∀ (s : State) (n : BitVec 16),
    (n.toNat ≤ s.cfg.maMax →
      ∃ t, exec (.maInit n) s = .next t ∧ OkResponse s t 0 ∧ t.ma.size = n ∧ t.ma.buf = [] ∧
        t = { s with ma := t.ma, port := t.port }) ∧
    (s.cfg.maMax < n.toNat → ∃ t, exec (.maInit n) s = .next t ∧ ErrResponse s t 2 ∧ OnlyPort s t) ∧
    (∃ t, exec .maReset s = .next t ∧ OkResponse s t 0 ∧ t.ma.size = s.ma.size ∧ t.ma.buf = [] ∧
      t = { s with ma := t.ma, port := t.port })

/-- MA_ADD appends the sample; when the window was full the oldest goes, and with size 0 nothing is kept (R263). The window
bound is the premise, an invariant of the machine (R266). -/
def Obligations.MaAddAppendsAndEvicts : Prop :=
  ∀ (s : State) (x : Word), s.ma.buf.length ≤ s.ma.size.toNat →
    ∃ t, exec (.maAdd x) s = .next t ∧ OkResponse s t 0 ∧ t.ma.size = s.ma.size ∧
      (s.ma.buf.length < s.ma.size.toNat → t.ma.buf = s.ma.buf ++ [x]) ∧
      (s.ma.buf.length = s.ma.size.toNat → t.ma.buf = (s.ma.buf ++ [x]).drop 1) ∧
      t = { s with ma := t.ma, port := t.port }

/-- MA_AVG responds with the quotient of the exact sum by the count of held samples, rounded toward zero, as a signed
32-bit number between the least and the greatest sample; 0 for an empty window; it writes nothing (R265). -/
def Obligations.MaAvgIsTheMeanTowardZero : Prop :=
  ∀ s : State, ∃ t d, exec .maAvg s = .next t ∧ OnlyPort s t ∧ OkResponse s t d ∧
    (s.ma.buf = [] → d = 0) ∧
    (s.ma.buf ≠ [] →
      d.toInt.natAbs = (s.ma.buf.map BitVec.toInt).sum.natAbs / s.ma.buf.length ∧
      (0 ≤ (s.ma.buf.map BitVec.toInt).sum → 0 ≤ d.toInt) ∧
      ((s.ma.buf.map BitVec.toInt).sum ≤ 0 → d.toInt ≤ 0) ∧
      (∀ lo hi : Int, (∀ x, x ∈ s.ma.buf → lo ≤ x.toInt ∧ x.toInt ≤ hi) → lo ≤ d.toInt ∧ d.toInt ≤ hi))

/-- After MA_INIT with size `n` and adds of `xs` and nothing else, the window holds the last `min(m, n)` of the `m` samples in
the order they were added (R267).
The spec marks R267 as derived from R262 and R263. -/
def Obligations.WindowHoldsTheLastSamples : Prop :=
  ∀ (s : State) (n : BitVec 16) (xs : List Word), n.toNat ≤ s.cfg.maMax →
    ∃ t, Spec.runAll (.maInit n :: xs.map Instr.maAdd) s = some t ∧
      t.ma.buf = xs.drop (xs.length - min xs.length n.toNat) ∧ t.ma.size = n

/-! ### Errors (60_exceptions) -/

/-- Every command, in every state, answers with a response; it is `ILLEGAL` exactly when an operand is out of the ranges of
R88, `INVALID_STATE` in exactly the three cases of R281, and `OK` otherwise. -/
def Obligations.EveryCommandAnswersWithItsStatus : Prop :=
  ∀ (i : Instr) (s : State), ∃ t, exec i s = .next t ∧ t.port.rspValid = true ∧
    (t.port.rspStatus = 2 ↔ i.wellFormed s.cfg = false) ∧
    (t.port.rspStatus = 1 ↔ i.wellFormed s.cfg = true ∧
      ((∃ l v, i = .dlWrite l v ∧ (s.line l.toNat).dir = .input) ∨
       (∃ l, i = .dlRead l ∧ (s.line l.toNat).dir = .output) ∨
       (i = .pxWrite ∧ (s.line 1).dir = .input))) ∧
    (t.port.rspStatus = 0 ∨ t.port.rspStatus = 1 ∨ t.port.rspStatus = 2)

/-- Taking an exception ends the command with its code (1 for `INVALID_STATE`, 2 for `ILLEGAL`) and data 0 and leaves the state
exactly as it was: no register written, no line touched, no event logged, no time passed, the sequencer where it was. It
is precise: a command that does not respond `OK` has done nothing else (R283). -/
def Obligations.ExceptionsChangeNothing : Prop :=
  (∀ (e : Exception) (s : State),
    ErrResponse s (raise e s) (if e = .invalidState then 1 else 2) ∧ OnlyPort s (raise e s)) ∧
  (∀ (i : Instr) (s : State), ∃ t, exec i s = .next t ∧
    (t.port.rspStatus ≠ 0 → ∃ e, t = raise e s))

/-- Each command writes what the table of R77 gives it and nothing else: one line the three writing DL commands, line 0 the
single-wire commands, the latch of line 1 PX_WRITE; the hidden time the timed commands; the log these and DL_READ; the
pixel memory PX_INIT, PX_SET and PX_FILL; the sample memory MA_INIT, MA_ADD and MA_RESET; the debouncer DB_INIT and
DB_READ; `tm_start` TM_START. No command writes the configuration, the sequencer at rest, the words of the port or the
script.
The spec marks R77 as derived from the command rules. -/
def Obligations.UnitsWriteOnlyTheirOwnRegisters : Prop :=
  ∀ (i : Instr) (s : State), ∃ t, exec i s = .next t ∧
    t.cfg = s.cfg ∧ t.inputs = s.inputs ∧ t.seq = s.seq ∧ t.port.cmd = s.port.cmd ∧ t.port.arg = s.port.arg ∧
    t.lines.length = s.lines.length ∧
    (∀ k, Spec.writesLine i k = false → t.line k = s.line k) ∧
    (i = .pxWrite → (t.line 1).dir = (s.line 1).dir ∧ (t.line 1).pull = (s.line 1).pull) ∧
    (Spec.writesTime i = false → t.time = s.time) ∧
    (Spec.writesLog i = false → t.log = s.log) ∧
    (i.opcode ∉ [Opcode.pxInit, Opcode.pxSet, Opcode.pxFill] → t.px = s.px) ∧
    (i.opcode ∉ [Opcode.maInit, Opcode.maAdd, Opcode.maReset] → t.ma = s.ma) ∧
    (i.opcode ∉ [Opcode.dbInit, Opcode.dbRead] → t.db = s.db) ∧
    (i ≠ .tmStart → t.tmStart = s.tmStart)

/-- No command reads the log: with the environment's answers given, two states that differ in the log alone take the same
step, with the same events appended (R40). -/
def Obligations.NoCommandReadsTheLog : Prop :=
  ∀ (i : Instr) (s : State) (other : List Event), 8 ≤ s.answers.length →
    ∃ t es, exec i s = .next t ∧ t.log = s.log ++ es ∧
      exec i { s with log := other } = .next { t with log := other ++ es }

/-! ### Invariants of every step -/

/-- The machine right after reset, for any legal configuration and any start of the hidden time, meets the invariant (R50,
R266). -/
def Obligations.ResetMeetsTheInvariant : Prop :=
  ∀ (P : Config.Params) (T0 : Nat), P.valid → Inv (State.powerOn P T0)

/-- Every step keeps the invariant: one set of registers per line, the pixel memory exactly `px_n` entries, the sample window
within its size and both within their capacities (R266, R29), Ticks below `2^W` (R24, R25, R30), status codes 0 to 2
(R84), the sequencer where its tables allow and at rest in `IDLE` (R21). -/
def Obligations.StepKeepsTheInvariant : Prop :=
  ∀ s t : State, Inv s → step s = .next t → Inv t

/-- Right after reset the log is faithful (it says truly that every pad is released, R40, R135, and samples no driven line,
R27 a), and it holds no sample and no passage of time (R310). That it holds the reset's own events and nothing before
them is the model's choice, notes/assumptions/8.md. -/
def Obligations.ResetLogIsFaithful : Prop :=
  ∀ (P : Config.Params) (T0 : Nat), logFaithful (State.powerOn P T0) ∧
    sampleCount (State.powerOn P T0).log = 0 ∧ logTime (State.powerOn P T0).log = 0

/-- Every step keeps the log faithful: the last `Drive` of each line is its pad state, and no line is ever sampled while the
core drives it: "a DigitalLine is never read and driven in the same instant" (R27 a, R135, R40). -/
def Obligations.StepKeepsTheLogFaithful : Prop :=
  ∀ s t : State, Inv s → logFaithful s → step s = .next t → logFaithful t

/-- Time never goes back and the log accounts for all of it: a step only appends events, the hidden time advances by exactly
the waits among them, and every wait is positive (R22, R40, R330). It holds for commands, phases, idle steps and resets. -/
def Obligations.TimeAndLogAdvanceTogether : Prop :=
  ∀ s : State, ∃ t es, step s = .next t ∧ t.log = s.log ++ es ∧ t.time = s.time + logTime es ∧ waitsPositive es

/-! ### The two views agree (42_onewire R161, 43_pixel R213) -/

/-- Running the phase table of R160 from acceptance to the response gives the same events, the same advance of the hidden
time, the same state and the same response as the command run whole, for all five single-wire commands (R161).
The spec marks R161 as derived from R151 to R155 and R160. -/
def Obligations.OneWirePhasesAgree : Prop :=
  ∀ (i : Instr) (s : State), Spec.isOneWire i = true → s.seq = Sequencer.atRest → s.port.cmd = (encode i).1 →
    ∃ u, startCommand i s = .next u ∧ exec i s = .next (phaseRun (phaseCount i s) u)

/-- Running the phase table of R212 from acceptance to the response gives the same state and response as PX_WRITE run whole,
for a buffer of any length and for line 1 in either direction (R213).
The spec marks R213 as derived from R204 and R212. -/
def Obligations.PixelPhasesAgree : Prop :=
  ∀ s : State, s.seq = Sequencer.atRest →
    ∃ u, startCommand .pxWrite s = .next u ∧ exec .pxWrite s = .next (phaseRun (phaseCount .pxWrite s) u)
end

