-- ==== Sys2Proof/Laws/Decode.lean ====
section
/-! SUPPORT. The fields of a packed command word, one lemma per field; opcode numbers and operand codes read back. -/

namespace Sys2Proof

/-! ### Fields of `{op, a}` and of `a` -/

/-- A bit of `{op, a}` (R82). -/
theorem packWord_getLsbD (op : Byte) (a : BitVec 24) (i : Nat) :
    (packWord op a).getLsbD i = if i < 24 then a.getLsbD i else op.getLsbD (i - 24) := by
  by_cases h : i < 24
  · have : i < 32 := by omega
    simp [packWord, h, this]
  · by_cases h2 : i < 32
    · simp [packWord, h, h2, BitVec.getLsbD_of_ge a i (by omega)]
    · simp [packWord, h, h2, BitVec.getLsbD_of_ge op (i - 24) (by omega)]

/-- A bit of `{hi, mid, lo}` (R83). -/
theorem packBytes_getLsbD (hi mid lo : Byte) (i : Nat) :
    (packBytes hi mid lo).getLsbD i =
      if i < 8 then lo.getLsbD i else if i < 16 then mid.getLsbD (i - 8) else hi.getLsbD (i - 16) := by
  by_cases h8 : i < 8
  · have h16 : i < 16 := by omega
    have h24 : i < 24 := by omega
    simp [packBytes, h8, h16, h24]
  · by_cases h16 : i < 16
    · have h24 : i < 24 := by omega
      simp [packBytes, h8, h16, h24, BitVec.getLsbD_of_ge lo i (by omega)]
    · by_cases h24 : i < 24
      · simp [packBytes, h8, h16, h24, BitVec.getLsbD_of_ge lo i (by omega),
          BitVec.getLsbD_of_ge mid (i - 8) (by omega)]
      · simp [packBytes, h8, h16, h24, BitVec.getLsbD_of_ge hi (i - 16) (by omega)]

/-- A bit of `{level, thr}` (R83). -/
theorem packLevel_getLsbD (level : Bit) (thr : BitVec 23) (i : Nat) :
    (packLevel level thr).getLsbD i = if i < 23 then thr.getLsbD i else level.getLsbD (i - 23) := by
  by_cases h : i < 23
  · have : i < 24 := by omega
    simp [packLevel, h, this]
  · by_cases h2 : i < 24
    · have : i = 23 := by omega
      subst this; simp [packLevel]
    · simp [packLevel, h, h2, BitVec.getLsbD_of_ge level (i - 23) (by omega)]

@[simp] theorem opField_packWord (op : Byte) (a : BitVec 24) : opField (packWord op a) = op := by
  apply BitVec.eq_of_getLsbD_eq; intro i hi
  simp [-BitVec.getLsbD_eq_getElem, opField, packWord_getLsbD, hi]

@[simp] theorem rField_packBytes (op r g b : Byte) : rField (packWord op (packBytes r g b)) = r := by
  apply BitVec.eq_of_getLsbD_eq; intro i hi
  have : 16 + i < 24 := by omega
  have h8 : ¬ 16 + i < 8 := by omega
  simp [-BitVec.getLsbD_eq_getElem, rField, packWord_getLsbD, packBytes_getLsbD, hi, this, h8]

@[simp] theorem gField_packBytes (op r g b : Byte) : gField (packWord op (packBytes r g b)) = g := by
  apply BitVec.eq_of_getLsbD_eq; intro i hi
  have h24 : 8 + i < 24 := by omega
  have h16 : 8 + i < 16 := by omega
  simp [-BitVec.getLsbD_eq_getElem, gField, packWord_getLsbD, packBytes_getLsbD, hi, h24, h16]

@[simp] theorem bField_packBytes (op r g b : Byte) : bField (packWord op (packBytes r g b)) = b := by
  apply BitVec.eq_of_getLsbD_eq; intro i hi
  have h24 : i < 24 := by omega
  simp [-BitVec.getLsbD_eq_getElem, bField, packWord_getLsbD, packBytes_getLsbD, hi, h24]

@[simp] theorem nField_setWidth (op : Byte) (n : BitVec 16) : nField (packWord op (n.setWidth 24)) = n := by
  apply BitVec.eq_of_getLsbD_eq; intro i hi
  have h24 : i < 24 := by omega
  simp [-BitVec.getLsbD_eq_getElem, nField, packWord_getLsbD, hi, h24]

@[simp] theorem bitField_setWidth (op : Byte) (v : Bit) : bitField (packWord op (v.setWidth 24)) = v := by
  apply BitVec.eq_of_getLsbD_eq; intro i hi
  have : i = 0 := by omega
  subst this; simp [-BitVec.getLsbD_eq_getElem, bitField, packWord_getLsbD]

@[simp] theorem levelField_packLevel (op : Byte) (level : Bit) (thr : BitVec 23) :
    levelField (packWord op (packLevel level thr)) = level := by
  apply BitVec.eq_of_getLsbD_eq; intro i hi
  have : i = 0 := by omega
  subst this; simp [-BitVec.getLsbD_eq_getElem, levelField, packWord_getLsbD, packLevel_getLsbD]

@[simp] theorem thrField_packLevel (op : Byte) (level : Bit) (thr : BitVec 23) :
    thrField (packWord op (packLevel level thr)) = thr := by
  apply BitVec.eq_of_getLsbD_eq; intro i hi
  have h24 : i < 24 := by omega
  simp [-BitVec.getLsbD_eq_getElem, thrField, packWord_getLsbD, packLevel_getLsbD, hi, h24]

/-! ### Codes -/

/-- The number of every opcode names it, and no other (R86). -/
@[simp] theorem ofCode_code (o : Opcode) : Opcode.ofCode o.code = some o := by cases o <;> decide

@[simp] theorem dir_ofCode_code (d : Dir) : Dir.ofCode d.code = some d := by cases d <;> decide

@[simp] theorem pull_ofCode_code (p : Pull) : Pull.ofCode p.code = some p := by cases p <;> decide

@[simp] theorem levelOfCode_setWidth (v : Bit) : levelOfCode (v.setWidth 8) = some v := by
  revert v; decide

end Sys2Proof
end

