-- ==== Sys2Proof/Laws/State.lean ====
section
/-! SUPPORT. One lemma per field per update: what each named operation does to each field of the state. -/

namespace Sys2Proof.Machine

/-! ### setLine -/

@[simp] theorem setLine_cfg (s : State) (l : Nat) (ln : Line) : (s.setLine l ln).cfg = s.cfg := rfl
@[simp] theorem setLine_time (s : State) (l : Nat) (ln : Line) : (s.setLine l ln).time = s.time := rfl
@[simp] theorem setLine_log (s : State) (l : Nat) (ln : Line) : (s.setLine l ln).log = s.log := rfl
@[simp] theorem setLine_port (s : State) (l : Nat) (ln : Line) : (s.setLine l ln).port = s.port := rfl
@[simp] theorem setLine_seq (s : State) (l : Nat) (ln : Line) : (s.setLine l ln).seq = s.seq := rfl
@[simp] theorem setLine_tmStart (s : State) (l : Nat) (ln : Line) : (s.setLine l ln).tmStart = s.tmStart := rfl
@[simp] theorem setLine_lines (s : State) (l : Nat) (ln : Line) : (s.setLine l ln).lines = s.lines.set l ln := rfl
@[simp] theorem setLine_px (s : State) (l : Nat) (ln : Line) : (s.setLine l ln).px = s.px := rfl
@[simp] theorem setLine_db (s : State) (l : Nat) (ln : Line) : (s.setLine l ln).db = s.db := rfl
@[simp] theorem setLine_ma (s : State) (l : Nat) (ln : Line) : (s.setLine l ln).ma = s.ma := rfl
@[simp] theorem setLine_inputs (s : State) (l : Nat) (ln : Line) : (s.setLine l ln).inputs = s.inputs := rfl
@[simp] theorem setLine_answers (s : State) (l : Nat) (ln : Line) : (s.setLine l ln).answers = s.answers := rfl
@[simp] theorem setLine_draws (s : State) (l : Nat) (ln : Line) : (s.setLine l ln).draws = s.draws := rfl
@[simp] theorem setLine_pixel (s : State) (l : Nat) (ln : Line) (i : Nat) : (s.setLine l ln).pixel i = s.pixel i := by simp [State.pixel]

/-! ### record -/

@[simp] theorem record_cfg (s : State) (e : Event) : (s.record e).cfg = s.cfg := rfl
@[simp] theorem record_time (s : State) (e : Event) : (s.record e).time = s.time := rfl
@[simp] theorem record_log (s : State) (e : Event) : (s.record e).log = s.log ++ [e] := rfl
@[simp] theorem record_port (s : State) (e : Event) : (s.record e).port = s.port := rfl
@[simp] theorem record_seq (s : State) (e : Event) : (s.record e).seq = s.seq := rfl
@[simp] theorem record_tmStart (s : State) (e : Event) : (s.record e).tmStart = s.tmStart := rfl
@[simp] theorem record_lines (s : State) (e : Event) : (s.record e).lines = s.lines := rfl
@[simp] theorem record_px (s : State) (e : Event) : (s.record e).px = s.px := rfl
@[simp] theorem record_db (s : State) (e : Event) : (s.record e).db = s.db := rfl
@[simp] theorem record_ma (s : State) (e : Event) : (s.record e).ma = s.ma := rfl
@[simp] theorem record_inputs (s : State) (e : Event) : (s.record e).inputs = s.inputs := rfl
@[simp] theorem record_answers (s : State) (e : Event) : (s.record e).answers = s.answers := rfl
@[simp] theorem record_draws (s : State) (e : Event) : (s.record e).draws = s.draws := rfl
@[simp] theorem record_line (s : State) (e : Event) (k : Nat) : (s.record e).line k = s.line k := by simp [State.line]
@[simp] theorem record_pixel (s : State) (e : Event) (i : Nat) : (s.record e).pixel i = s.pixel i := by simp [State.pixel]

/-! ### announce -/

@[simp] theorem announce_cfg (s : State) (l : Nat) : (s.announce l).cfg = s.cfg := rfl
@[simp] theorem announce_time (s : State) (l : Nat) : (s.announce l).time = s.time := rfl
@[simp] theorem announce_log (s : State) (l : Nat) : (s.announce l).log = s.log ++ [.drive l (s.line l).pad] := rfl
@[simp] theorem announce_port (s : State) (l : Nat) : (s.announce l).port = s.port := rfl
@[simp] theorem announce_seq (s : State) (l : Nat) : (s.announce l).seq = s.seq := rfl
@[simp] theorem announce_tmStart (s : State) (l : Nat) : (s.announce l).tmStart = s.tmStart := rfl
@[simp] theorem announce_lines (s : State) (l : Nat) : (s.announce l).lines = s.lines := rfl
@[simp] theorem announce_px (s : State) (l : Nat) : (s.announce l).px = s.px := rfl
@[simp] theorem announce_db (s : State) (l : Nat) : (s.announce l).db = s.db := rfl
@[simp] theorem announce_ma (s : State) (l : Nat) : (s.announce l).ma = s.ma := rfl
@[simp] theorem announce_inputs (s : State) (l : Nat) : (s.announce l).inputs = s.inputs := rfl
@[simp] theorem announce_answers (s : State) (l : Nat) : (s.announce l).answers = s.answers := rfl
@[simp] theorem announce_draws (s : State) (l : Nat) : (s.announce l).draws = s.draws := rfl
@[simp] theorem announce_line (s : State) (l : Nat) (k : Nat) : (s.announce l).line k = s.line k := by simp [State.line]
@[simp] theorem announce_pixel (s : State) (l : Nat) (i : Nat) : (s.announce l).pixel i = s.pixel i := by simp [State.pixel]

/-! ### setSeq -/

@[simp] theorem setSeq_cfg (s : State) (q : Sequencer) : (s.setSeq q).cfg = s.cfg := rfl
@[simp] theorem setSeq_time (s : State) (q : Sequencer) : (s.setSeq q).time = s.time := rfl
@[simp] theorem setSeq_log (s : State) (q : Sequencer) : (s.setSeq q).log = s.log := rfl
@[simp] theorem setSeq_port (s : State) (q : Sequencer) : (s.setSeq q).port = s.port := rfl
@[simp] theorem setSeq_seq (s : State) (q : Sequencer) : (s.setSeq q).seq = q := rfl
@[simp] theorem setSeq_tmStart (s : State) (q : Sequencer) : (s.setSeq q).tmStart = s.tmStart := rfl
@[simp] theorem setSeq_lines (s : State) (q : Sequencer) : (s.setSeq q).lines = s.lines := rfl
@[simp] theorem setSeq_px (s : State) (q : Sequencer) : (s.setSeq q).px = s.px := rfl
@[simp] theorem setSeq_db (s : State) (q : Sequencer) : (s.setSeq q).db = s.db := rfl
@[simp] theorem setSeq_ma (s : State) (q : Sequencer) : (s.setSeq q).ma = s.ma := rfl
@[simp] theorem setSeq_inputs (s : State) (q : Sequencer) : (s.setSeq q).inputs = s.inputs := rfl
@[simp] theorem setSeq_answers (s : State) (q : Sequencer) : (s.setSeq q).answers = s.answers := rfl
@[simp] theorem setSeq_draws (s : State) (q : Sequencer) : (s.setSeq q).draws = s.draws := rfl
@[simp] theorem setSeq_line (s : State) (q : Sequencer) (k : Nat) : (s.setSeq q).line k = s.line k := by simp [State.line]
@[simp] theorem setSeq_pixel (s : State) (q : Sequencer) (i : Nat) : (s.setSeq q).pixel i = s.pixel i := by simp [State.pixel]

/-! ### drive -/

@[simp] theorem drive_cfg (l : Nat) (d : Dir) (o : Bit) (s : State) : (drive l d o s).cfg = s.cfg := rfl
@[simp] theorem drive_time (l : Nat) (d : Dir) (o : Bit) (s : State) : (drive l d o s).time = s.time := rfl
@[simp] theorem drive_port (l : Nat) (d : Dir) (o : Bit) (s : State) : (drive l d o s).port = s.port := rfl
@[simp] theorem drive_seq (l : Nat) (d : Dir) (o : Bit) (s : State) : (drive l d o s).seq = s.seq := rfl
@[simp] theorem drive_tmStart (l : Nat) (d : Dir) (o : Bit) (s : State) : (drive l d o s).tmStart = s.tmStart := rfl
@[simp] theorem drive_lines (l : Nat) (d : Dir) (o : Bit) (s : State) : (drive l d o s).lines = s.lines.set l { (s.line l) with dir := d, out := o } := rfl
@[simp] theorem drive_px (l : Nat) (d : Dir) (o : Bit) (s : State) : (drive l d o s).px = s.px := rfl
@[simp] theorem drive_db (l : Nat) (d : Dir) (o : Bit) (s : State) : (drive l d o s).db = s.db := rfl
@[simp] theorem drive_ma (l : Nat) (d : Dir) (o : Bit) (s : State) : (drive l d o s).ma = s.ma := rfl
@[simp] theorem drive_inputs (l : Nat) (d : Dir) (o : Bit) (s : State) : (drive l d o s).inputs = s.inputs := rfl
@[simp] theorem drive_answers (l : Nat) (d : Dir) (o : Bit) (s : State) : (drive l d o s).answers = s.answers := rfl
@[simp] theorem drive_draws (l : Nat) (d : Dir) (o : Bit) (s : State) : (drive l d o s).draws = s.draws := rfl
@[simp] theorem drive_pixel (l : Nat) (d : Dir) (o : Bit) (s : State) (i : Nat) : (drive l d o s).pixel i = s.pixel i := by simp [State.pixel]

/-! ### release -/

@[simp] theorem release_cfg (l : Nat) (s : State) : (release l s).cfg = s.cfg := rfl
@[simp] theorem release_time (l : Nat) (s : State) : (release l s).time = s.time := rfl
@[simp] theorem release_log (l : Nat) (s : State) : (release l s).log = s.log ++ [.drive l .z] := rfl
@[simp] theorem release_port (l : Nat) (s : State) : (release l s).port = s.port := rfl
@[simp] theorem release_seq (l : Nat) (s : State) : (release l s).seq = s.seq := rfl
@[simp] theorem release_tmStart (l : Nat) (s : State) : (release l s).tmStart = s.tmStart := rfl
@[simp] theorem release_lines (l : Nat) (s : State) : (release l s).lines = s.lines.set l { (s.line l) with dir := .input } := rfl
@[simp] theorem release_px (l : Nat) (s : State) : (release l s).px = s.px := rfl
@[simp] theorem release_db (l : Nat) (s : State) : (release l s).db = s.db := rfl
@[simp] theorem release_ma (l : Nat) (s : State) : (release l s).ma = s.ma := rfl
@[simp] theorem release_inputs (l : Nat) (s : State) : (release l s).inputs = s.inputs := rfl
@[simp] theorem release_answers (l : Nat) (s : State) : (release l s).answers = s.answers := rfl
@[simp] theorem release_draws (l : Nat) (s : State) : (release l s).draws = s.draws := rfl
@[simp] theorem release_pixel (l : Nat) (s : State) (i : Nat) : (release l s).pixel i = s.pixel i := by simp [State.pixel]

/-! ### setPull -/

@[simp] theorem setPull_cfg (l : Nat) (p : Pull) (s : State) : (setPull l p s).cfg = s.cfg := rfl
@[simp] theorem setPull_time (l : Nat) (p : Pull) (s : State) : (setPull l p s).time = s.time := rfl
@[simp] theorem setPull_log (l : Nat) (p : Pull) (s : State) : (setPull l p s).log = s.log ++ [.pull l p] := rfl
@[simp] theorem setPull_port (l : Nat) (p : Pull) (s : State) : (setPull l p s).port = s.port := rfl
@[simp] theorem setPull_seq (l : Nat) (p : Pull) (s : State) : (setPull l p s).seq = s.seq := rfl
@[simp] theorem setPull_tmStart (l : Nat) (p : Pull) (s : State) : (setPull l p s).tmStart = s.tmStart := rfl
@[simp] theorem setPull_lines (l : Nat) (p : Pull) (s : State) : (setPull l p s).lines = s.lines.set l { (s.line l) with pull := p } := rfl
@[simp] theorem setPull_px (l : Nat) (p : Pull) (s : State) : (setPull l p s).px = s.px := rfl
@[simp] theorem setPull_db (l : Nat) (p : Pull) (s : State) : (setPull l p s).db = s.db := rfl
@[simp] theorem setPull_ma (l : Nat) (p : Pull) (s : State) : (setPull l p s).ma = s.ma := rfl
@[simp] theorem setPull_inputs (l : Nat) (p : Pull) (s : State) : (setPull l p s).inputs = s.inputs := rfl
@[simp] theorem setPull_answers (l : Nat) (p : Pull) (s : State) : (setPull l p s).answers = s.answers := rfl
@[simp] theorem setPull_draws (l : Nat) (p : Pull) (s : State) : (setPull l p s).draws = s.draws := rfl
@[simp] theorem setPull_pixel (l : Nat) (p : Pull) (s : State) (i : Nat) : (setPull l p s).pixel i = s.pixel i := by simp [State.pixel]

/-! ### setDir -/

@[simp] theorem setDir_cfg (l : Nat) (d : Dir) (s : State) : (setDir l d s).cfg = s.cfg := rfl
@[simp] theorem setDir_time (l : Nat) (d : Dir) (s : State) : (setDir l d s).time = s.time := rfl
@[simp] theorem setDir_port (l : Nat) (d : Dir) (s : State) : (setDir l d s).port = s.port := rfl
@[simp] theorem setDir_seq (l : Nat) (d : Dir) (s : State) : (setDir l d s).seq = s.seq := rfl
@[simp] theorem setDir_tmStart (l : Nat) (d : Dir) (s : State) : (setDir l d s).tmStart = s.tmStart := rfl
@[simp] theorem setDir_lines (l : Nat) (d : Dir) (s : State) : (setDir l d s).lines = s.lines.set l { (s.line l) with dir := d } := rfl
@[simp] theorem setDir_px (l : Nat) (d : Dir) (s : State) : (setDir l d s).px = s.px := rfl
@[simp] theorem setDir_db (l : Nat) (d : Dir) (s : State) : (setDir l d s).db = s.db := rfl
@[simp] theorem setDir_ma (l : Nat) (d : Dir) (s : State) : (setDir l d s).ma = s.ma := rfl
@[simp] theorem setDir_inputs (l : Nat) (d : Dir) (s : State) : (setDir l d s).inputs = s.inputs := rfl
@[simp] theorem setDir_answers (l : Nat) (d : Dir) (s : State) : (setDir l d s).answers = s.answers := rfl
@[simp] theorem setDir_draws (l : Nat) (d : Dir) (s : State) : (setDir l d s).draws = s.draws := rfl
@[simp] theorem setDir_pixel (l : Nat) (d : Dir) (s : State) (i : Nat) : (setDir l d s).pixel i = s.pixel i := by simp [State.pixel]

/-! ### setOut -/

@[simp] theorem setOut_cfg (l : Nat) (v : Bit) (s : State) : (setOut l v s).cfg = s.cfg := rfl
@[simp] theorem setOut_time (l : Nat) (v : Bit) (s : State) : (setOut l v s).time = s.time := rfl
@[simp] theorem setOut_port (l : Nat) (v : Bit) (s : State) : (setOut l v s).port = s.port := rfl
@[simp] theorem setOut_seq (l : Nat) (v : Bit) (s : State) : (setOut l v s).seq = s.seq := rfl
@[simp] theorem setOut_tmStart (l : Nat) (v : Bit) (s : State) : (setOut l v s).tmStart = s.tmStart := rfl
@[simp] theorem setOut_lines (l : Nat) (v : Bit) (s : State) : (setOut l v s).lines = s.lines.set l { (s.line l) with out := v } := rfl
@[simp] theorem setOut_px (l : Nat) (v : Bit) (s : State) : (setOut l v s).px = s.px := rfl
@[simp] theorem setOut_db (l : Nat) (v : Bit) (s : State) : (setOut l v s).db = s.db := rfl
@[simp] theorem setOut_ma (l : Nat) (v : Bit) (s : State) : (setOut l v s).ma = s.ma := rfl
@[simp] theorem setOut_inputs (l : Nat) (v : Bit) (s : State) : (setOut l v s).inputs = s.inputs := rfl
@[simp] theorem setOut_answers (l : Nat) (v : Bit) (s : State) : (setOut l v s).answers = s.answers := rfl
@[simp] theorem setOut_draws (l : Nat) (v : Bit) (s : State) : (setOut l v s).draws = s.draws := rfl
@[simp] theorem setOut_pixel (l : Nat) (v : Bit) (s : State) (i : Nat) : (setOut l v s).pixel i = s.pixel i := by simp [State.pixel]

/-! ### wait -/

@[simp] theorem wait_cfg (d : Nat) (s : State) : (wait d s).cfg = s.cfg := by unfold wait; split <;> simp_all
@[simp] theorem wait_time (d : Nat) (s : State) : (wait d s).time = s.time + d := by unfold wait; split <;> simp_all
@[simp] theorem wait_log (d : Nat) (s : State) : (wait d s).log = s.log ++ (if d = 0 then [] else [.wait d]) := by unfold wait; split <;> simp_all
@[simp] theorem wait_port (d : Nat) (s : State) : (wait d s).port = s.port := by unfold wait; split <;> simp_all
@[simp] theorem wait_seq (d : Nat) (s : State) : (wait d s).seq = s.seq := by unfold wait; split <;> simp_all
@[simp] theorem wait_tmStart (d : Nat) (s : State) : (wait d s).tmStart = s.tmStart := by unfold wait; split <;> simp_all
@[simp] theorem wait_lines (d : Nat) (s : State) : (wait d s).lines = s.lines := by unfold wait; split <;> simp_all
@[simp] theorem wait_px (d : Nat) (s : State) : (wait d s).px = s.px := by unfold wait; split <;> simp_all
@[simp] theorem wait_db (d : Nat) (s : State) : (wait d s).db = s.db := by unfold wait; split <;> simp_all
@[simp] theorem wait_ma (d : Nat) (s : State) : (wait d s).ma = s.ma := by unfold wait; split <;> simp_all
@[simp] theorem wait_inputs (d : Nat) (s : State) : (wait d s).inputs = s.inputs := by unfold wait; split <;> simp_all
@[simp] theorem wait_answers (d : Nat) (s : State) : (wait d s).answers = s.answers := by unfold wait; split <;> simp_all
@[simp] theorem wait_draws (d : Nat) (s : State) : (wait d s).draws = s.draws := by unfold wait; split <;> simp_all
@[simp] theorem wait_line (d : Nat) (s : State) (k : Nat) : (wait d s).line k = s.line k := by simp [State.line]
@[simp] theorem wait_pixel (d : Nat) (s : State) (i : Nat) : (wait d s).pixel i = s.pixel i := by simp [State.pixel]

/-! ### idleFor -/

@[simp] theorem idleFor_cfg (d : Nat) (s : State) : (idleFor d s).cfg = s.cfg := by simp [idleFor]
@[simp] theorem idleFor_time (d : Nat) (s : State) : (idleFor d s).time = s.time + d := by simp [idleFor]
@[simp] theorem idleFor_log (d : Nat) (s : State) : (idleFor d s).log = s.log ++ (if d = 0 then [] else [.wait d]) := by simp [idleFor]
@[simp] theorem idleFor_port (d : Nat) (s : State) : (idleFor d s).port = s.port := by simp [idleFor]
@[simp] theorem idleFor_seq (d : Nat) (s : State) : (idleFor d s).seq = s.seq := by simp [idleFor]
@[simp] theorem idleFor_tmStart (d : Nat) (s : State) : (idleFor d s).tmStart = s.tmStart := by simp [idleFor]
@[simp] theorem idleFor_lines (d : Nat) (s : State) : (idleFor d s).lines = s.lines := by simp [idleFor]
@[simp] theorem idleFor_px (d : Nat) (s : State) : (idleFor d s).px = s.px := by simp [idleFor]
@[simp] theorem idleFor_db (d : Nat) (s : State) : (idleFor d s).db = s.db := by simp [idleFor]
@[simp] theorem idleFor_ma (d : Nat) (s : State) : (idleFor d s).ma = s.ma := by simp [idleFor]
@[simp] theorem idleFor_inputs (d : Nat) (s : State) : (idleFor d s).inputs = s.inputs := by simp [idleFor]
@[simp] theorem idleFor_answers (d : Nat) (s : State) : (idleFor d s).answers = s.answers := by simp [idleFor]
@[simp] theorem idleFor_draws (d : Nat) (s : State) : (idleFor d s).draws = s.draws := by simp [idleFor]
@[simp] theorem idleFor_line (d : Nat) (s : State) (k : Nat) : (idleFor d s).line k = s.line k := by simp [State.line]
@[simp] theorem idleFor_pixel (d : Nat) (s : State) (i : Nat) : (idleFor d s).pixel i = s.pixel i := by simp [State.pixel]

/-! ### answerUsed -/

@[simp] theorem answerUsed_cfg (s : State) : (s.answerUsed).cfg = s.cfg := by unfold State.answerUsed; split <;> simp_all
@[simp] theorem answerUsed_time (s : State) : (s.answerUsed).time = s.time := by unfold State.answerUsed; split <;> simp_all
@[simp] theorem answerUsed_log (s : State) : (s.answerUsed).log = s.log := by unfold State.answerUsed; split <;> simp_all
@[simp] theorem answerUsed_port (s : State) : (s.answerUsed).port = s.port := by unfold State.answerUsed; split <;> simp_all
@[simp] theorem answerUsed_seq (s : State) : (s.answerUsed).seq = s.seq := by unfold State.answerUsed; split <;> simp_all
@[simp] theorem answerUsed_tmStart (s : State) : (s.answerUsed).tmStart = s.tmStart := by unfold State.answerUsed; split <;> simp_all
@[simp] theorem answerUsed_lines (s : State) : (s.answerUsed).lines = s.lines := by unfold State.answerUsed; split <;> simp_all
@[simp] theorem answerUsed_px (s : State) : (s.answerUsed).px = s.px := by unfold State.answerUsed; split <;> simp_all
@[simp] theorem answerUsed_db (s : State) : (s.answerUsed).db = s.db := by unfold State.answerUsed; split <;> simp_all
@[simp] theorem answerUsed_ma (s : State) : (s.answerUsed).ma = s.ma := by unfold State.answerUsed; split <;> simp_all
@[simp] theorem answerUsed_inputs (s : State) : (s.answerUsed).inputs = s.inputs := by unfold State.answerUsed; split <;> simp_all
@[simp] theorem answerUsed_answers (s : State) : (s.answerUsed).answers = s.answers.tail := by unfold State.answerUsed; split <;> simp_all
@[simp] theorem answerUsed_draws (s : State) : (s.answerUsed).draws = s.draws + (if s.answers = [] then 1 else 0) := by unfold State.answerUsed; split <;> simp_all
@[simp] theorem answerUsed_line (s : State) (k : Nat) : (s.answerUsed).line k = s.line k := by simp [State.line]
@[simp] theorem answerUsed_pixel (s : State) (i : Nat) : (s.answerUsed).pixel i = s.pixel i := by simp [State.pixel]

/-! ### respond -/

@[simp] theorem respond_cfg (st : Status) (data : Word) (s : State) : (respond st data s).cfg = s.cfg := rfl
@[simp] theorem respond_time (st : Status) (data : Word) (s : State) : (respond st data s).time = s.time := rfl
@[simp] theorem respond_log (st : Status) (data : Word) (s : State) : (respond st data s).log = s.log := rfl
@[simp] theorem respond_port (st : Status) (data : Word) (s : State) : (respond st data s).port = { s.port with rspStatus := st.code, rspData := data, rspValid := true } := rfl
@[simp] theorem respond_seq (st : Status) (data : Word) (s : State) : (respond st data s).seq = s.seq := rfl
@[simp] theorem respond_tmStart (st : Status) (data : Word) (s : State) : (respond st data s).tmStart = s.tmStart := rfl
@[simp] theorem respond_lines (st : Status) (data : Word) (s : State) : (respond st data s).lines = s.lines := rfl
@[simp] theorem respond_px (st : Status) (data : Word) (s : State) : (respond st data s).px = s.px := rfl
@[simp] theorem respond_db (st : Status) (data : Word) (s : State) : (respond st data s).db = s.db := rfl
@[simp] theorem respond_ma (st : Status) (data : Word) (s : State) : (respond st data s).ma = s.ma := rfl
@[simp] theorem respond_inputs (st : Status) (data : Word) (s : State) : (respond st data s).inputs = s.inputs := rfl
@[simp] theorem respond_answers (st : Status) (data : Word) (s : State) : (respond st data s).answers = s.answers := rfl
@[simp] theorem respond_draws (st : Status) (data : Word) (s : State) : (respond st data s).draws = s.draws := rfl
@[simp] theorem respond_line (st : Status) (data : Word) (s : State) (k : Nat) : (respond st data s).line k = s.line k := by simp [State.line]
@[simp] theorem respond_pixel (st : Status) (data : Word) (s : State) (i : Nat) : (respond st data s).pixel i = s.pixel i := by simp [State.pixel]

/-! ### respondOk -/

@[simp] theorem respondOk_cfg (data : Word) (s : State) : (respondOk data s).cfg = s.cfg := rfl
@[simp] theorem respondOk_time (data : Word) (s : State) : (respondOk data s).time = s.time := rfl
@[simp] theorem respondOk_log (data : Word) (s : State) : (respondOk data s).log = s.log := rfl
@[simp] theorem respondOk_port (data : Word) (s : State) : (respondOk data s).port = { s.port with rspStatus := 0, rspData := data, rspValid := true } := rfl
@[simp] theorem respondOk_seq (data : Word) (s : State) : (respondOk data s).seq = s.seq := rfl
@[simp] theorem respondOk_tmStart (data : Word) (s : State) : (respondOk data s).tmStart = s.tmStart := rfl
@[simp] theorem respondOk_lines (data : Word) (s : State) : (respondOk data s).lines = s.lines := rfl
@[simp] theorem respondOk_px (data : Word) (s : State) : (respondOk data s).px = s.px := rfl
@[simp] theorem respondOk_db (data : Word) (s : State) : (respondOk data s).db = s.db := rfl
@[simp] theorem respondOk_ma (data : Word) (s : State) : (respondOk data s).ma = s.ma := rfl
@[simp] theorem respondOk_inputs (data : Word) (s : State) : (respondOk data s).inputs = s.inputs := rfl
@[simp] theorem respondOk_answers (data : Word) (s : State) : (respondOk data s).answers = s.answers := rfl
@[simp] theorem respondOk_draws (data : Word) (s : State) : (respondOk data s).draws = s.draws := rfl
@[simp] theorem respondOk_line (data : Word) (s : State) (k : Nat) : (respondOk data s).line k = s.line k := by simp [State.line]
@[simp] theorem respondOk_pixel (data : Word) (s : State) (i : Nat) : (respondOk data s).pixel i = s.pixel i := by simp [State.pixel]

/-! ### raise -/

@[simp] theorem raise_cfg (e : Exception) (s : State) : (raise e s).cfg = s.cfg := rfl
@[simp] theorem raise_time (e : Exception) (s : State) : (raise e s).time = s.time := rfl
@[simp] theorem raise_log (e : Exception) (s : State) : (raise e s).log = s.log := rfl
@[simp] theorem raise_port (e : Exception) (s : State) : (raise e s).port = { s.port with rspStatus := e.status.code, rspData := 0, rspValid := true } := rfl
@[simp] theorem raise_seq (e : Exception) (s : State) : (raise e s).seq = s.seq := rfl
@[simp] theorem raise_tmStart (e : Exception) (s : State) : (raise e s).tmStart = s.tmStart := rfl
@[simp] theorem raise_lines (e : Exception) (s : State) : (raise e s).lines = s.lines := rfl
@[simp] theorem raise_px (e : Exception) (s : State) : (raise e s).px = s.px := rfl
@[simp] theorem raise_db (e : Exception) (s : State) : (raise e s).db = s.db := rfl
@[simp] theorem raise_ma (e : Exception) (s : State) : (raise e s).ma = s.ma := rfl
@[simp] theorem raise_inputs (e : Exception) (s : State) : (raise e s).inputs = s.inputs := rfl
@[simp] theorem raise_answers (e : Exception) (s : State) : (raise e s).answers = s.answers := rfl
@[simp] theorem raise_draws (e : Exception) (s : State) : (raise e s).draws = s.draws := rfl
@[simp] theorem raise_line (e : Exception) (s : State) (k : Nat) : (raise e s).line k = s.line k := by simp [State.line]
@[simp] theorem raise_pixel (e : Exception) (s : State) (i : Nat) : (raise e s).pixel i = s.pixel i := by simp [State.pixel]

/-! ### quiet -/

@[simp] theorem quiet_cfg (s : State) : (quiet s).cfg = s.cfg := rfl
@[simp] theorem quiet_time (s : State) : (quiet s).time = s.time := rfl
@[simp] theorem quiet_log (s : State) : (quiet s).log = s.log := rfl
@[simp] theorem quiet_port (s : State) : (quiet s).port = { s.port with rspValid := false } := rfl
@[simp] theorem quiet_seq (s : State) : (quiet s).seq = s.seq := rfl
@[simp] theorem quiet_tmStart (s : State) : (quiet s).tmStart = s.tmStart := rfl
@[simp] theorem quiet_lines (s : State) : (quiet s).lines = s.lines := rfl
@[simp] theorem quiet_px (s : State) : (quiet s).px = s.px := rfl
@[simp] theorem quiet_db (s : State) : (quiet s).db = s.db := rfl
@[simp] theorem quiet_ma (s : State) : (quiet s).ma = s.ma := rfl
@[simp] theorem quiet_inputs (s : State) : (quiet s).inputs = s.inputs := rfl
@[simp] theorem quiet_answers (s : State) : (quiet s).answers = s.answers := rfl
@[simp] theorem quiet_draws (s : State) : (quiet s).draws = s.draws := rfl
/-- Once the response is over, the phase alone says whether the core is ready. -/
@[simp] theorem quiet_cmdReady (s : State) : (quiet s).cmdReady = decide (s.seq.phase = .idle) :=
  Bool.and_true _
@[simp] theorem quiet_line (s : State) (k : Nat) : (quiet s).line k = s.line k := by simp [State.line]
@[simp] theorem quiet_pixel (s : State) (i : Nat) : (quiet s).pixel i = s.pixel i := by simp [State.pixel]

/-! ### acceptWords -/

@[simp] theorem acceptWords_cfg (cmd arg : Word) (s : State) : (acceptWords cmd arg s).cfg = s.cfg := rfl
@[simp] theorem acceptWords_time (cmd arg : Word) (s : State) : (acceptWords cmd arg s).time = s.time := rfl
@[simp] theorem acceptWords_log (cmd arg : Word) (s : State) : (acceptWords cmd arg s).log = s.log := rfl
@[simp] theorem acceptWords_port (cmd arg : Word) (s : State) : (acceptWords cmd arg s).port = { s.port with cmd := cmd, arg := arg } := rfl
@[simp] theorem acceptWords_seq (cmd arg : Word) (s : State) : (acceptWords cmd arg s).seq = s.seq := rfl
@[simp] theorem acceptWords_tmStart (cmd arg : Word) (s : State) : (acceptWords cmd arg s).tmStart = s.tmStart := rfl
@[simp] theorem acceptWords_lines (cmd arg : Word) (s : State) : (acceptWords cmd arg s).lines = s.lines := rfl
@[simp] theorem acceptWords_px (cmd arg : Word) (s : State) : (acceptWords cmd arg s).px = s.px := rfl
@[simp] theorem acceptWords_db (cmd arg : Word) (s : State) : (acceptWords cmd arg s).db = s.db := rfl
@[simp] theorem acceptWords_ma (cmd arg : Word) (s : State) : (acceptWords cmd arg s).ma = s.ma := rfl
@[simp] theorem acceptWords_inputs (cmd arg : Word) (s : State) : (acceptWords cmd arg s).inputs = s.inputs := rfl
@[simp] theorem acceptWords_answers (cmd arg : Word) (s : State) : (acceptWords cmd arg s).answers = s.answers := rfl
@[simp] theorem acceptWords_draws (cmd arg : Word) (s : State) : (acceptWords cmd arg s).draws = s.draws := rfl
@[simp] theorem acceptWords_line (cmd arg : Word) (s : State) (k : Nat) : (acceptWords cmd arg s).line k = s.line k := by simp [State.line]
@[simp] theorem acceptWords_pixel (cmd arg : Word) (s : State) (i : Nat) : (acceptWords cmd arg s).pixel i = s.pixel i := by simp [State.pixel]

/-! ### dropAnswers -/

@[simp] theorem dropAnswers_cfg (m : Nat) (s : State) : (dropAnswers m s).cfg = s.cfg := rfl
@[simp] theorem dropAnswers_time (m : Nat) (s : State) : (dropAnswers m s).time = s.time := rfl
@[simp] theorem dropAnswers_log (m : Nat) (s : State) : (dropAnswers m s).log = s.log := rfl
@[simp] theorem dropAnswers_port (m : Nat) (s : State) : (dropAnswers m s).port = s.port := rfl
@[simp] theorem dropAnswers_seq (m : Nat) (s : State) : (dropAnswers m s).seq = s.seq := rfl
@[simp] theorem dropAnswers_tmStart (m : Nat) (s : State) : (dropAnswers m s).tmStart = s.tmStart := rfl
@[simp] theorem dropAnswers_lines (m : Nat) (s : State) : (dropAnswers m s).lines = s.lines := rfl
@[simp] theorem dropAnswers_px (m : Nat) (s : State) : (dropAnswers m s).px = s.px := rfl
@[simp] theorem dropAnswers_db (m : Nat) (s : State) : (dropAnswers m s).db = s.db := rfl
@[simp] theorem dropAnswers_ma (m : Nat) (s : State) : (dropAnswers m s).ma = s.ma := rfl
@[simp] theorem dropAnswers_inputs (m : Nat) (s : State) : (dropAnswers m s).inputs = s.inputs := rfl
@[simp] theorem dropAnswers_answers (m : Nat) (s : State) : (dropAnswers m s).answers = s.answers.drop m := rfl
@[simp] theorem dropAnswers_draws (m : Nat) (s : State) : (dropAnswers m s).draws = s.draws + (m - s.answers.length) := rfl
@[simp] theorem dropAnswers_line (m : Nat) (s : State) (k : Nat) : (dropAnswers m s).line k = s.line k := by simp [State.line]
@[simp] theorem dropAnswers_pixel (m : Nat) (s : State) (i : Nat) : (dropAnswers m s).pixel i = s.pixel i := by simp [State.pixel]

/-! ### finish -/

@[simp] theorem finish_cfg (data : Word) (s : State) : (finish data s).cfg = s.cfg := rfl
@[simp] theorem finish_time (data : Word) (s : State) : (finish data s).time = s.time := rfl
@[simp] theorem finish_log (data : Word) (s : State) : (finish data s).log = s.log := rfl
@[simp] theorem finish_port (data : Word) (s : State) : (finish data s).port = { s.port with rspStatus := 0, rspData := data, rspValid := true } := rfl
@[simp] theorem finish_seq (data : Word) (s : State) : (finish data s).seq = Sequencer.atRest := rfl
@[simp] theorem finish_tmStart (data : Word) (s : State) : (finish data s).tmStart = s.tmStart := rfl
@[simp] theorem finish_lines (data : Word) (s : State) : (finish data s).lines = s.lines := rfl
@[simp] theorem finish_px (data : Word) (s : State) : (finish data s).px = s.px := rfl
@[simp] theorem finish_db (data : Word) (s : State) : (finish data s).db = s.db := rfl
@[simp] theorem finish_ma (data : Word) (s : State) : (finish data s).ma = s.ma := rfl
@[simp] theorem finish_inputs (data : Word) (s : State) : (finish data s).inputs = s.inputs := rfl
@[simp] theorem finish_answers (data : Word) (s : State) : (finish data s).answers = s.answers := rfl
@[simp] theorem finish_draws (data : Word) (s : State) : (finish data s).draws = s.draws := rfl
@[simp] theorem finish_line (data : Word) (s : State) (k : Nat) : (finish data s).line k = s.line k := by simp [State.line]
@[simp] theorem finish_pixel (data : Word) (s : State) (i : Nat) : (finish data s).pixel i = s.pixel i := by simp [State.pixel]

/-! ### spend -/

@[simp] theorem spend_cfg (len : Nat) (next : Phase) (s : State) : (spend len next s).cfg = s.cfg := by simp [spend, countDown]
@[simp] theorem spend_time (len : Nat) (next : Phase) (s : State) : (spend len next s).time = s.time + len := by simp [spend, countDown]
@[simp] theorem spend_log (len : Nat) (next : Phase) (s : State) : (spend len next s).log = s.log ++ (if len = 0 then [] else [.wait len]) := by simp [spend, countDown]
@[simp] theorem spend_port (len : Nat) (next : Phase) (s : State) : (spend len next s).port = s.port := by simp [spend, countDown]
@[simp] theorem spend_seq (len : Nat) (next : Phase) (s : State) : (spend len next s).seq = { s.seq with phase := next, cnt := 0 } := by simp [spend, countDown]
@[simp] theorem spend_tmStart (len : Nat) (next : Phase) (s : State) : (spend len next s).tmStart = s.tmStart := by simp [spend, countDown]
@[simp] theorem spend_lines (len : Nat) (next : Phase) (s : State) : (spend len next s).lines = s.lines := by simp [spend, countDown]
@[simp] theorem spend_px (len : Nat) (next : Phase) (s : State) : (spend len next s).px = s.px := by simp [spend, countDown]
@[simp] theorem spend_db (len : Nat) (next : Phase) (s : State) : (spend len next s).db = s.db := by simp [spend, countDown]
@[simp] theorem spend_ma (len : Nat) (next : Phase) (s : State) : (spend len next s).ma = s.ma := by simp [spend, countDown]
@[simp] theorem spend_inputs (len : Nat) (next : Phase) (s : State) : (spend len next s).inputs = s.inputs := by simp [spend, countDown]
@[simp] theorem spend_answers (len : Nat) (next : Phase) (s : State) : (spend len next s).answers = s.answers := by simp [spend, countDown]
@[simp] theorem spend_draws (len : Nat) (next : Phase) (s : State) : (spend len next s).draws = s.draws := by simp [spend, countDown]
@[simp] theorem spend_line (len : Nat) (next : Phase) (s : State) (k : Nat) : (spend len next s).line k = s.line k := by simp [State.line]
@[simp] theorem spend_pixel (len : Nat) (next : Phase) (s : State) (i : Nat) : (spend len next s).pixel i = s.pixel i := by simp [State.pixel]

/-! ### hardReset -/

@[simp] theorem hardReset_cfg (s : State) : (hardReset s).cfg = s.cfg := rfl
@[simp] theorem hardReset_time (s : State) : (hardReset s).time = s.time := rfl
@[simp] theorem hardReset_log (s : State) : (hardReset s).log = s.log ++ resetEvents s.cfg.numLines := rfl
@[simp] theorem hardReset_port (s : State) : (hardReset s).port = Port.atReset := rfl
@[simp] theorem hardReset_seq (s : State) : (hardReset s).seq = Sequencer.atRest := rfl
@[simp] theorem hardReset_tmStart (s : State) : (hardReset s).tmStart = 0 := rfl
@[simp] theorem hardReset_lines (s : State) : (hardReset s).lines = List.replicate s.cfg.numLines Line.atReset := rfl
@[simp] theorem hardReset_px (s : State) : (hardReset s).px = { n := 0, entries := [] } := rfl
@[simp] theorem hardReset_db (s : State) : (hardReset s).db = { acc := 0, last := 0, thr := 0 } := rfl
@[simp] theorem hardReset_ma (s : State) : (hardReset s).ma = { size := 0, buf := [] } := rfl
@[simp] theorem hardReset_inputs (s : State) : (hardReset s).inputs = s.inputs := rfl
@[simp] theorem hardReset_answers (s : State) : (hardReset s).answers = s.answers := rfl
@[simp] theorem hardReset_draws (s : State) : (hardReset s).draws = s.draws := rfl

/-! ### Registers of a line after a write -/

theorem setLine_line (s : State) (l k : Nat) (ln : Line) :
    (s.setLine l ln).line k = if k = l ∧ l < s.lines.length then ln else s.line k := by
  by_cases h : k = l
  · subst h
    by_cases hl : k < s.lines.length <;> simp [State.line, State.setLine, List.getD, hl]
  · have h' : l ≠ k := fun e => h e.symm
    simp [State.line, State.setLine, List.getD, h, h']

theorem drive_line (l : Nat) (d : Dir) (o : Bit) (s : State) (k : Nat) :
    (drive l d o s).line k = if k = l ∧ l < s.lines.length then { (s.line l) with dir := d, out := o } else s.line k :=
  setLine_line s l k _

theorem release_line (l : Nat) (s : State) (k : Nat) :
    (release l s).line k = if k = l ∧ l < s.lines.length then { (s.line l) with dir := .input } else s.line k :=
  setLine_line s l k _

theorem setPull_line (l : Nat) (p : Pull) (s : State) (k : Nat) :
    (setPull l p s).line k = if k = l ∧ l < s.lines.length then { (s.line l) with pull := p } else s.line k :=
  setLine_line s l k _

theorem setDir_line (l : Nat) (d : Dir) (s : State) (k : Nat) :
    (setDir l d s).line k = if k = l ∧ l < s.lines.length then { (s.line l) with dir := d } else s.line k :=
  setLine_line s l k _

theorem setOut_line (l : Nat) (v : Bit) (s : State) (k : Nat) :
    (setOut l v s).line k = if k = l ∧ l < s.lines.length then { (s.line l) with out := v } else s.line k :=
  setLine_line s l k _

/-- What `drive` appends, on a line that exists (R11). -/
theorem drive_log (l : Nat) (d : Dir) (o : Bit) (s : State) (h : l < s.lines.length) :
    (drive l d o s).log = s.log ++ [.drive l (Line.pad { (s.line l) with dir := d, out := o })] := by
  simp [drive, setLine_line, h]

/-- What `setDir` appends, on a line that exists (R130). -/
theorem setDir_log (l : Nat) (d : Dir) (s : State) (h : l < s.lines.length) :
    (setDir l d s).log = s.log ++ [.drive l (Line.pad { (s.line l) with dir := d })] := by
  simp [setDir, setLine_line, h]

/-- What `setOut` appends, on a line that exists (R132). -/
theorem setOut_log (l : Nat) (v : Bit) (s : State) (h : l < s.lines.length) :
    (setOut l v s).log = s.log ++ [.drive l (Line.pad { (s.line l) with out := v })] := by
  simp [setOut, setLine_line, h]

end Sys2Proof.Machine
end

