-- ==== Sys2Proof/Laws/Ops.lean ====
section
/-! SUPPORT. For each shared operation, one lemma that says once everything it does; arithmetic of ticks and of the log. -/

namespace Sys2Proof.Machine

/-! ### Lists of events -/

@[simp] theorem logTime_append (es fs : List Event) : logTime (es ++ fs) = logTime es + logTime fs := by
  induction es with
  | nil => simp [logTime]
  | cons e es ih => cases e <;> simp [logTime, ih, Nat.add_assoc]

@[simp] theorem sampleCount_append (es fs : List Event) :
    sampleCount (es ++ fs) = sampleCount es + sampleCount fs := by
  induction es with
  | nil => simp [sampleCount]
  | cons e es ih => cases e <;> simp +arith [sampleCount, ih]

@[simp] theorem padAfter_append (l : Nat) (p : Pad) (es fs : List Event) :
    padAfter l p (es ++ fs) = padAfter l (padAfter l p es) fs := by
  induction es generalizing p with
  | nil => simp [padAfter]
  | cons e es ih => cases e <;> simp [padAfter, ih]

@[simp] theorem samplesReleased_append (l : Nat) (p : Pad) (es fs : List Event) :
    samplesReleased l p (es ++ fs) ↔ samplesReleased l p es ∧ samplesReleased l (padAfter l p es) fs := by
  induction es generalizing p with
  | nil => simp [padAfter, samplesReleased]
  | cons e es ih => cases e <;> simp [padAfter, samplesReleased, ih, and_assoc]

@[simp] theorem logTime_waited (d : Nat) : logTime (Spec.waited d) = d := by
  unfold Spec.waited; split <;> simp_all [logTime]

@[simp] theorem sampleCount_waited (d : Nat) : sampleCount (Spec.waited d) = 0 := by
  unfold Spec.waited; split <;> simp [sampleCount]

@[simp] theorem padAfter_waited (l d : Nat) (p : Pad) : padAfter l p (Spec.waited d) = p := by
  unfold Spec.waited; split <;> simp [padAfter]

@[simp] theorem samplesReleased_waited (l d : Nat) (p : Pad) : samplesReleased l p (Spec.waited d) := by
  unfold Spec.waited; split <;> simp [samplesReleased]

theorem waited_pos {d : Nat} (h : 0 < d) : Spec.waited d = [.wait d] := by
  simp [Spec.waited, Nat.ne_of_gt h]

/-- No event is waited for in no time (R11). -/
theorem waitsPositive_waited (d : Nat) : waitsPositive (Spec.waited d) := by
  intro e he
  unfold Spec.waited at he
  split at he
  · simp at he
  · simp at he; omega

theorem waitsPositive_append {es fs : List Event} (he : waitsPositive es) (hf : waitsPositive fs) :
    waitsPositive (es ++ fs) := by
  intro d hd
  rcases List.mem_append.1 hd with h | h
  · exact he d h
  · exact hf d h

/-! ### Ticks (R10, R24) -/

theorem two_pow_le {P : Config.Params} (h : P.valid) : 2 ^ P.tickBits ≤ 2 ^ 32 :=
  Nat.pow_le_pow_right (by decide) h.1.2

/-- A tick is the number modulo `2^W`. -/
theorem tickOfNat_toNat {P : Config.Params} (h : P.valid) (n : Nat) :
    (tickOfNat P n).toNat = n % 2 ^ P.tickBits := by
  have h1 : n % 2 ^ P.tickBits < 2 ^ P.tickBits := Nat.mod_lt _ (Nat.two_pow_pos _)
  have h2 := two_pow_le h
  rw [tickOfNat, BitVec.toNat_ofNat]
  exact Nat.mod_eq_of_lt (by omega)

/-- `tdiff` is the integer difference modulo `2^W`. -/
theorem tdiff_toNat {P : Config.Params} (h : P.valid) (a b : Word) :
    (tdiff P a b).toNat = Spec.tickDiff P a.toNat b.toNat := by
  have hp : (0 : Int) < (2 ^ P.tickBits : Nat) := by exact_mod_cast Nat.two_pow_pos _
  have h1 : ((a.toNat : Int) - b.toNat) % (2 ^ P.tickBits : Nat) < (2 ^ P.tickBits : Nat) := Int.emod_lt_of_pos _ hp
  have h0 : 0 ≤ ((a.toNat : Int) - b.toNat) % (2 ^ P.tickBits : Nat) := Int.emod_nonneg _ (by omega)
  have h2 := two_pow_le h
  rw [tdiff, Spec.tickDiff, BitVec.toNat_ofNat]
  exact Nat.mod_eq_of_lt (by omega)

/-- The difference as an integer. -/
theorem tickDiff_cast (P : Config.Params) (a b : Nat) :
    (Spec.tickDiff P a b : Int) = ((a : Int) - b) % (2 ^ P.tickBits : Nat) := by
  have hp : (0 : Int) < (2 ^ P.tickBits : Nat) := by exact_mod_cast Nat.two_pow_pos _
  exact Int.toNat_of_nonneg (Int.emod_nonneg _ (by omega))

theorem tickDiff_lt (P : Config.Params) (a b : Nat) : Spec.tickDiff P a b < 2 ^ P.tickBits := by
  have hp : (0 : Int) < (2 ^ P.tickBits : Nat) := by exact_mod_cast Nat.two_pow_pos _
  have h1 := Int.emod_lt_of_pos ((a : Int) - b) hp
  have h2 := tickDiff_cast P a b
  omega

/-- Reducing an operand modulo `2^W` first does not change a difference (R87 i). -/
@[simp] theorem tickDiff_mod_left (P : Config.Params) (a b : Nat) :
    Spec.tickDiff P (a % 2 ^ P.tickBits) b = Spec.tickDiff P a b := by
  simp only [Spec.tickDiff]; congr 1; push_cast; simp [Int.sub_emod]

@[simp] theorem tickDiff_mod_right (P : Config.Params) (a b : Nat) :
    Spec.tickDiff P a (b % 2 ^ P.tickBits) = Spec.tickDiff P a b := by
  simp only [Spec.tickDiff]; congr 1; push_cast; simp [Int.sub_emod]

/-- With the later reading first, the difference is the number of ticks modulo `2^W` (R116). -/
theorem tickDiff_of_le (P : Config.Params) {a b : Nat} (h : b ≤ a) :
    Spec.tickDiff P a b = (a - b) % 2 ^ P.tickBits := by
  have : ((a : Int) - b) = ((a - b : Nat) : Int) := by omega
  rw [Spec.tickDiff, this, ← Int.natCast_mod, Int.toNat_natCast]

/-! ### Samples (R136) -/

/-- The model's `resolve` is the table of R136. -/
theorem resolve_eq_levelOf (a : EnvAnswer) (p : Pull) : resolve a.ext p a.draw = Spec.levelOf a p := by
  cases a with | mk ext draw => cases ext <;> cases p <;> rfl

/-- `sample(l)` reads the environment's answer through the table of R136, logs it, uses the answer up, and touches nothing
else. -/
theorem sample_eq (l : Nat) (s : State) :
    sample l s = (Spec.levelOf (s.envAnswer l) (s.line l).pull,
      { s with
        log := s.log ++ [.sample l (s.envAnswer l).ext (Spec.levelOf (s.envAnswer l) (s.line l).pull)]
        answers := s.answers.tail
        draws := s.draws + (if s.answers = [] then 1 else 0) }) := by
  unfold sample State.sampledLevel State.answerUsed State.record
  rw [resolve_eq_levelOf]
  cases h : s.answers <;> simp

/-- A scripted answer is the one given. -/
theorem envAnswer_scripted {s : State} {l : Nat} {a : EnvAnswer} {rest : List EnvAnswer}
    (h : s.answers = a :: rest) : s.envAnswer l = a := by
  simp [State.envAnswer, h]

/-- Where nothing is scripted the answer is the free value. -/
theorem envAnswer_free {s : State} {l : Nat} (h : s.answers = []) :
    s.envAnswer l = Config.oracleAnswer s.draws s.log l := by
  simp [State.envAnswer, h]

/-! ### Time -/

/-- `wait(d)` in one equation. -/
theorem wait_eq (d : Nat) (s : State) :
    wait d s = { s with time := s.time + d, log := s.log ++ Spec.waited d } := by
  unfold wait Spec.waited
  by_cases h : d = 0 <;> simp [h]

/-- `spend` in one equation. -/
theorem spend_eq (len : Nat) (next : Phase) (s : State) :
    spend len next s = { s with
      time := s.time + len
      log := s.log ++ Spec.waited len
      seq := { s.seq with phase := next, cnt := 0 } } := by
  simp [spend, countDown, wait_eq, State.setSeq]

/-! ### Steps (R81) -/

/-- In `IDLE` a step takes the next entry of the script. -/
theorem step_idle {s : State} (h : s.seq.phase = .idle) : step s = idleStep (quiet s) := by simp [step, h]

/-- In any other phase a step goes on with the running command, or takes a reset. -/
theorem step_busy {s : State} (h : s.seq.phase ≠ .idle) : step s = busyStep (quiet s) := by simp [step, h]

/-- A core that has just responded is not ready. -/
theorem cmdReady_of_rspValid {s : State} (h : s.port.rspValid = true) : s.cmdReady = false := by
  simp [State.cmdReady, h]

/-! ### Lines -/

/-- `drive` in one equation, on a line that exists. -/
theorem drive_eq (l : Nat) (d : Dir) (o : Bit) (s : State) (h : l < s.lines.length) :
    drive l d o s = { s with
      lines := s.lines.set l { (s.line l) with dir := d, out := o }
      log := s.log ++ [.drive l (Line.pad { (s.line l) with dir := d, out := o })] } := by
  have := drive_log l d o s h
  simp only [drive, State.announce, State.record, State.setLine] at this ⊢
  simpa using this

/-- `release` in one equation. -/
theorem release_eq (l : Nat) (s : State) :
    release l s = { s with
      lines := s.lines.set l { (s.line l) with dir := .input }
      log := s.log ++ [.drive l .z] } := rfl

/-- `setPull` in one equation. -/
theorem setPull_eq (l : Nat) (p : Pull) (s : State) :
    setPull l p s = { s with
      lines := s.lines.set l { (s.line l) with pull := p }
      log := s.log ++ [.pull l p] } := rfl

end Sys2Proof.Machine
end

