-- ==== Sys2Proof/Laws/Units.lean ====
section
/-! SUPPORT. Slots, bit cells and frames in one equation each: what they leave and the events they append. -/

namespace Sys2Proof.Machine

/-- Line `l` of a state whose line `l` was just written. -/
theorem line_of_lines_set {s t : State} {l : Nat} {ln : Line} (h : t.lines = s.lines.set l ln)
    (hl : l < s.lines.length) (k : Nat) : t.line k = if k = l then ln else s.line k := by
  have := setLine_line s l k ln
  simp only [State.line, State.setLine] at this ⊢
  rw [h, this]; simp [hl]

/-! ### OneWireBus (42_onewire R151 to R155) -/

/-- "Drive low" in one equation. -/
theorem owDriveLow_eq (s : State) (h : 0 < s.lines.length) :
    owDriveLow s = { s with
      lines := s.lines.set 0 { (s.line 0) with dir := .output, out := 0 }
      log := s.log ++ [.drive 0 .l] } := by
  rw [owDriveLow, Config.lineOw, drive_eq _ _ _ _ h]; rfl

/-- "Release" in one equation. -/
theorem owRelease_eq (s : State) :
    owRelease s = { s with
      lines := s.lines.set 0 { (s.line 0) with dir := .input }
      log := s.log ++ [.drive 0 .z] } := rfl

/-- A low of `low` and a release of `rest`: the shape of every slot. -/
theorem slot_eq (s : State) (low rest : Nat) (h : 0 < s.lines.length) :
    wait rest (owRelease (wait low (owDriveLow s))) = { s with
      time := s.time + low + rest
      lines := s.lines.set 0 { dir := .input, pull := (s.line 0).pull, out := 0 }
      log := s.log ++ ([.drive 0 .l] ++ Spec.waited low ++ [.drive 0 .z] ++ Spec.waited rest) } := by
  simp only [wait_eq, owDriveLow_eq s h, owRelease_eq]
  simp [State.line, List.getD, h]

/-- A write slot in one equation (R152). -/
theorem writeSlot_eq (bit : Bit) (s : State) (h : 0 < s.lines.length)
    (hw : writeLow s.cfg bit ≤ s.cfg.tWslot) :
    writeSlot bit s = { s with
      time := s.time + s.cfg.tWslot
      lines := s.lines.set 0 { dir := .input, pull := (s.line 0).pull, out := 0 }
      log := s.log ++ Spec.writeSlotEvents s.cfg bit } := by
  simp only [writeSlot, slot_eq s _ _ h, Nat.add_assoc, Nat.add_sub_cancel' hw]
  rfl

/-- The low time of a write slot fits its slot (R6). -/
theorem writeLow_le {P : Config.Params} (h : P.valid) (bit : Bit) : writeLow P bit ≤ P.tWslot := by
  unfold writeLow; split
  · exact h.2.2.2.1.2
  · exact h.2.2.2.2.1.2

/-- A read slot in one equation (R153). -/
theorem readSlot_eq (s : State) (h : 0 < s.lines.length) (hr : s.cfg.tRinit + s.cfg.tRwait ≤ s.cfg.tRslot) :
    readSlot s = (Spec.levelOf ((readLead s).envAnswer 0) (s.line 0).pull, { s with
      time := s.time + s.cfg.tRslot
      lines := s.lines.set 0 { dir := .input, pull := (s.line 0).pull, out := 0 }
      log := s.log ++ Spec.readSlotEvents s.cfg (s.line 0).pull ((readLead s).envAnswer 0)
      answers := s.answers.tail
      draws := s.draws + (if s.answers = [] then 1 else 0) }) := by
  have hp : ((readLead s).line 0).pull = (s.line 0).pull := by
    rw [readLead, slot_eq s _ _ h]; simp [State.line, List.getD, h]
  simp only [readSlot, Config.lineOw, sample_eq, hp, wait_eq]
  refine Prod.ext rfl ?_
  generalize hx : (readLead s).envAnswer 0 = x
  rw [readLead, slot_eq s _ _ h]
  simp [Spec.readSlotEvents, readTail]
  omega

/-- The answer a read slot gets is the first scripted one. -/
theorem readLead_envAnswer_scripted {s : State} {a : EnvAnswer} {rest : List EnvAnswer}
    (h : s.answers = a :: rest) : (readLead s).envAnswer 0 = a := by
  apply envAnswer_scripted (rest := rest)
  simp [readLead, owRelease, owDriveLow, h]

/-! ### What a run of slots leaves -/

/-- The state after slots that last `d`, append `es` and take `k` answers: line 0 released with its pull kept, and nothing
else touched. -/
def owDone (s : State) (d : Nat) (es : List Event) (k : Nat) : State :=
  { s with
    time := s.time + d
    lines := s.lines.set 0 { dir := .input, pull := (s.line 0).pull, out := 0 }
    log := s.log ++ es
    answers := s.answers.drop k
    draws := s.draws + (k - s.answers.length) }

@[simp] theorem owDone_cfg (s : State) (d : Nat) (es : List Event) (k : Nat) : (owDone s d es k).cfg = s.cfg := rfl
@[simp] theorem owDone_time (s : State) (d : Nat) (es : List Event) (k : Nat) :
    (owDone s d es k).time = s.time + d := rfl
@[simp] theorem owDone_log (s : State) (d : Nat) (es : List Event) (k : Nat) :
    (owDone s d es k).log = s.log ++ es := rfl
@[simp] theorem owDone_answers (s : State) (d : Nat) (es : List Event) (k : Nat) :
    (owDone s d es k).answers = s.answers.drop k := rfl
@[simp] theorem owDone_port (s : State) (d : Nat) (es : List Event) (k : Nat) :
    (owDone s d es k).port = s.port := rfl
@[simp] theorem owDone_seq (s : State) (d : Nat) (es : List Event) (k : Nat) : (owDone s d es k).seq = s.seq := rfl
@[simp] theorem owDone_lines_length (s : State) (d : Nat) (es : List Event) (k : Nat) :
    (owDone s d es k).lines.length = s.lines.length := by simp [owDone]

theorem owDone_line (s : State) (d : Nat) (es : List Event) (k : Nat) (h : 0 < s.lines.length) (l : Nat) :
    (owDone s d es k).line l =
      if l = 0 then { dir := .input, pull := (s.line 0).pull, out := 0 } else s.line l :=
  line_of_lines_set (t := owDone s d es k) rfl h l

/-- Slots after slots are slots. -/
theorem owDone_owDone (s : State) (d e : Nat) (es fs : List Event) (k m : Nat) (h : 0 < s.lines.length) :
    owDone (owDone s d es k) e fs m = owDone s (d + e) (es ++ fs) (k + m) := by
  have hp := owDone_line s d es k h 0
  rw [owDone, hp]
  simp only [owDone, State.mk.injEq, List.append_assoc, List.drop_drop, List.set_set, List.length_drop,
    Nat.add_assoc, true_and, if_true]
  omega

/-- A write slot (R152). -/
theorem writeSlot_done (bit : Bit) (s : State) (hv : s.cfg.valid) (h : 0 < s.lines.length) :
    writeSlot bit s = owDone s s.cfg.tWslot (Spec.writeSlotEvents s.cfg bit) 0 := by
  rw [writeSlot_eq bit s h (writeLow_le hv bit)]; simp [owDone]

/-- Write slots back to back (R154). -/
theorem writeSlots_done (bits : List Bit) (s : State) (hv : s.cfg.valid) (h : 0 < s.lines.length)
    (hb : bits ≠ []) :
    writeSlots bits s =
      owDone s (bits.length * s.cfg.tWslot) (bits.flatMap (Spec.writeSlotEvents s.cfg)) 0 := by
  induction bits generalizing s with
  | nil => exact absurd rfl hb
  | cons b bs ih =>
    rw [writeSlots, writeSlot_done b s hv h]
    cases bs with
    | nil => simp [writeSlots]
    | cons c cs =>
      rw [ih (owDone s _ _ _) hv (by simpa using h) (by simp), owDone_owDone s _ _ _ _ _ _ h]
      simp only [owDone_cfg, List.length_cons, List.flatMap_cons]
      congr 1
      rw [Nat.add_mul (cs.length + 1) 1]; omega

/-- The read slots fit their slot (R6). -/
theorem read_fits {P : Config.Params} (h : P.valid) : P.tRinit + P.tRwait ≤ P.tRslot :=
  h.2.2.2.2.2.2.1.2.1

/-- A read slot: some answer `a`, the scripted one where there is one (R153). -/
theorem readSlot_done (s : State) (hv : s.cfg.valid) (h : 0 < s.lines.length) :
    ∃ a, (∀ b rest, s.answers = b :: rest → a = b) ∧
      readSlot s = (Spec.levelOf a (s.line 0).pull,
        owDone s s.cfg.tRslot (Spec.readSlotEvents s.cfg (s.line 0).pull a) 1) := by
  refine ⟨(readLead s).envAnswer 0, fun b rest hb => readLead_envAnswer_scripted hb, ?_⟩
  rw [readSlot_eq s h (read_fits hv)]
  have : (if s.answers = [] then 1 else 0) = 1 - s.answers.length := by
    cases s.answers <;> simp
  simp [owDone, this]

/-- The bits of `r[i] <- v`. -/
theorem setByteBit_getLsbD (r : Byte) (i : Nat) (v : Bit) (j : Nat) (hi : i < 8) :
    (setByteBit r i v).getLsbD j = if j = i then decide (v = 1) else r.getLsbD j := by
  have hv : v = 0 ∨ v = 1 := by revert v; decide
  by_cases hj : j < 8
  · by_cases h : j = i
    · subst h; rcases hv with rfl | rfl <;> simp [setByteBit, hj]
    · rcases Nat.lt_or_ge j i with h1 | h1
      · rcases hv with rfl | rfl <;> simp [setByteBit, hj, h, h1]
      · have h2 : ¬ j < i := by omega
        have h3 : ¬ j - i = 0 := by omega
        rcases hv with rfl | rfl <;> simp [setByteBit, hj, h, h2, h3]
  · have h : j ≠ i := by omega
    simp [BitVec.getLsbD_of_ge _ j (by omega : 8 ≤ j), h]

/-- Answers taken one after the other. -/
theorem answersOf_cons {s t : State} {a : EnvAnswer} {as : List EnvAnswer} (ht : t.answers = s.answers.drop 1)
    (ha : ∀ b rest, s.answers = b :: rest → a = b) (has : Spec.AnswersOf t as) : Spec.AnswersOf s (a :: as) := by
  intro k hk hk2
  cases hs : s.answers with
  | nil => simp [hs] at hk
  | cons b rest =>
    cases k with
    | zero => simp [ha b rest hs]
    | succ k =>
      have h1 : k < t.answers.length := by simp [ht, hs] at hk ⊢; omega
      have := has k h1 (by simpa using hk2)
      simpa [ht, hs] using this

theorem answersOf_nil (s : State) : Spec.AnswersOf s [] := fun k _ hk => by simp at hk

/-- Read slots back to back: bit `j` of the result is the level of slot `j - i` (R155). -/
theorem readSlots_done (k i : Nat) (r : Byte) (s : State) (hv : s.cfg.valid) (h : 0 < s.lines.length)
    (hk : 0 < k) (hi : i + k ≤ 8) :
    ∃ as v, readSlots k i r s = (v, owDone s (k * s.cfg.tRslot)
        (as.flatMap (Spec.readSlotEvents s.cfg (s.line 0).pull)) k) ∧
      as.length = k ∧ Spec.AnswersOf s as ∧
      ∀ j, v.getLsbD j = if i ≤ j ∧ j < i + k
        then decide ((as[j - i]?.map fun a => Spec.levelOf a (s.line 0).pull) = some 1) else r.getLsbD j := by
  induction k generalizing i r s with
  | zero => omega
  | succ k ih =>
    obtain ⟨a, ha, he⟩ := readSlot_done s hv h
    rw [readSlots, he]
    rcases Nat.eq_zero_or_pos k with rfl | hk'
    · refine ⟨[a], setByteBit r i (Spec.levelOf a (s.line 0).pull), by simp [readSlots], rfl, ?_, ?_⟩
      · exact answersOf_cons (t := { s with answers := s.answers.drop 1 }) rfl ha (answersOf_nil _)
      · intro j
        rw [setByteBit_getLsbD _ _ _ _ (by omega)]
        by_cases hj : j = i
        · subst hj; simp
        · rw [if_neg hj, if_neg (by omega)]
    · generalize hs : owDone s s.cfg.tRslot (Spec.readSlotEvents s.cfg (s.line 0).pull a) 1 = t
      have hp : (t.line 0).pull = (s.line 0).pull := by rw [← hs, owDone_line _ _ _ _ h]; rfl
      obtain ⟨as, v, e1, e2, e3, e4⟩ := ih (i + 1) (setByteBit r i (Spec.levelOf a (s.line 0).pull)) t
        (by rw [← hs]; exact hv) (by rw [← hs]; simpa using h) hk' (by omega)
      refine ⟨a :: as, v, ?_, by simp [e2], answersOf_cons (by rw [← hs]; rfl) ha e3, ?_⟩
      · simp only []
        rw [e1, hp, ← hs, owDone_owDone s _ _ _ _ _ _ h]
        simp only [owDone_cfg, List.flatMap_cons, Nat.add_comm 1 k]
        congr 2
        rw [Nat.add_mul]; omega
      · intro j
        rw [e4, hp, setByteBit_getLsbD _ _ _ _ (by omega)]
        by_cases hj : j = i
        · subst hj; simp
        · by_cases h2 : i ≤ j ∧ j < i + (k + 1)
          · have h3 : i + 1 ≤ j ∧ j < i + 1 + k := by omega
            have h4 : j - i = (j - (i + 1)) + 1 := by omega
            simp [h2, h3, h4]
          · have h3 : ¬ (i + 1 ≤ j ∧ j < i + 1 + k) := by omega
            rw [if_neg h3, if_neg hj, if_neg h2]

/-- The bits the two definitions of the wire order give are the same (R63). -/
theorem bitsLsbFirst_eq (byte : Byte) : bitsLsbFirst byte = Spec.owBits byte := by
  simp only [bitsLsbFirst, Spec.owBits]
  refine List.map_congr_left fun i _ => ?_
  apply BitVec.eq_of_getLsbD_eq
  intro j hj
  have : j = 0 := by omega
  subst this; simp

/-- The part of OW_RESET up to the sample, in one equation (R151). -/
theorem resetLead_eq (s : State) (h : 0 < s.lines.length) :
    resetLead s = { s with
      time := s.time + s.cfg.tRstl + s.cfg.tPdwait
      lines := s.lines.set 0 { dir := .input, pull := .pullUp, out := 0 }
      log := s.log ++ ([.drive 0 .l] ++ Spec.waited s.cfg.tRstl ++ [.drive 0 .z, .pull 0 .pullUp] ++
        Spec.waited s.cfg.tPdwait) } := by
  simp only [resetLead, wait_eq, owDriveLow_eq s h, owRelease_eq, setPull_eq, Config.lineOw]
  simp [State.line, List.getD, h]

/-! ### PixelBus (43_pixel R204 to R207) -/

/-- A bit cell in one equation (R205). -/
theorem emitBit_eq (v : Bit) (s : State) (h : 1 < s.lines.length) :
    emitBit v s = { s with
      time := s.time + cellHigh s.cfg v + cellLow s.cfg v
      lines := s.lines.set 1 { dir := .output, pull := (s.line 1).pull, out := 0 }
      log := s.log ++ Spec.cellEvents s.cfg v } := by
  have h' : 1 < (wait (cellHigh s.cfg v) (drive 1 .output 1 s)).lines.length := by simpa using h
  rw [emitBit, Config.linePx, drive_eq 1 _ _ _ h']
  simp only [wait_eq, drive_eq 1 _ _ _ h]
  simp [State.line, List.getD, h, Line.pad, Spec.cellEvents, cellHigh, cellLow]

/-- The latch gap in one equation (R207). -/
theorem latchGap_eq (s : State) (h : 1 < s.lines.length) :
    latchGap s = { s with
      time := s.time + s.cfg.tLatch
      lines := s.lines.set 1 { dir := .output, pull := (s.line 1).pull, out := 0 }
      log := s.log ++ ([.drive 1 .l] ++ Spec.waited s.cfg.tLatch) } := by
  simp only [latchGap, Config.linePx, drive_eq 1 _ _ _ h, wait_eq]
  simp [Line.pad]

/-- The state after bit cells or a latch gap that append `es`: line 1 an output with latch 0, its pull kept, and nothing else
touched. -/
def pxDone (s : State) (es : List Event) : State :=
  { s with
    time := s.time + logTime es
    lines := s.lines.set 1 { dir := .output, pull := (s.line 1).pull, out := 0 }
    log := s.log ++ es }

@[simp] theorem pxDone_cfg (s : State) (es : List Event) : (pxDone s es).cfg = s.cfg := rfl
@[simp] theorem pxDone_px (s : State) (es : List Event) : (pxDone s es).px = s.px := rfl
@[simp] theorem pxDone_pixel (s : State) (es : List Event) (i : Nat) : (pxDone s es).pixel i = s.pixel i := rfl
@[simp] theorem pxDone_log (s : State) (es : List Event) : (pxDone s es).log = s.log ++ es := rfl
@[simp] theorem pxDone_time (s : State) (es : List Event) : (pxDone s es).time = s.time + logTime es := rfl
@[simp] theorem pxDone_seq (s : State) (es : List Event) : (pxDone s es).seq = s.seq := rfl
@[simp] theorem pxDone_port (s : State) (es : List Event) : (pxDone s es).port = s.port := rfl
@[simp] theorem pxDone_lines_length (s : State) (es : List Event) : (pxDone s es).lines.length = s.lines.length := by
  simp [pxDone]

theorem pxDone_line (s : State) (es : List Event) (h : 1 < s.lines.length) (l : Nat) :
    (pxDone s es).line l =
      if l = 1 then { dir := .output, pull := (s.line 1).pull, out := 0 } else s.line l :=
  line_of_lines_set (t := pxDone s es) rfl h l

/-- Cells after cells are cells. -/
theorem pxDone_pxDone (s : State) (es fs : List Event) (h : 1 < s.lines.length) :
    pxDone (pxDone s es) fs = pxDone s (es ++ fs) := by
  have hp := pxDone_line s es h 1
  rw [pxDone, hp]
  simp [pxDone, Nat.add_assoc]

/-- The length of a bit cell (R205). -/
theorem logTime_cellEvents (P : Config.Params) (v : Bit) :
    logTime (Spec.cellEvents P v) = cellHigh P v + cellLow P v := by
  simp [Spec.cellEvents, logTime, cellHigh, cellLow]

theorem emitBit_done (v : Bit) (s : State) (h : 1 < s.lines.length) :
    emitBit v s = pxDone s (Spec.cellEvents s.cfg v) := by
  rw [emitBit_eq v s h, pxDone, logTime_cellEvents, Nat.add_assoc]

/-- Bit cells back to back (R204). -/
theorem emitBits_done (bits : List Bit) (s : State) (h : 1 < s.lines.length) (hb : bits ≠ []) :
    emitBits bits s = pxDone s (bits.flatMap (Spec.cellEvents s.cfg)) := by
  induction bits generalizing s with
  | nil => exact absurd rfl hb
  | cons b bs ih =>
    rw [emitBits, emitBit_done b s h]
    cases bs with
    | nil => simp [emitBits]
    | cons c cs =>
      rw [ih (pxDone s _) (by simpa using h) (by simp), pxDone_pxDone s _ _ h]
      simp

/-- The bits of the triplets from index `p` on. -/
def tripletsBits (s : State) (k p : Nat) : List Bit :=
  (List.range' p k).flatMap (fun i => tripletBits (s.pixel i))

/-- Triplets back to back (R204). -/
theorem emitTriplets_done (k p : Nat) (s : State) (h : 1 < s.lines.length) (hk : 0 < k) :
    emitTriplets k p s = pxDone s ((tripletsBits s k p).flatMap (Spec.cellEvents s.cfg)) := by
  induction k generalizing p s with
  | zero => omega
  | succ k ih =>
    rw [emitTriplets, emitBits_done _ s h (by simp [tripletBits, bitsMsbFirst])]
    rcases Nat.eq_zero_or_pos k with rfl | hk'
    · simp [emitTriplets, tripletsBits]
    · rw [ih (p + 1) (pxDone s _) (by simpa using h) hk', pxDone_pxDone s _ _ h]
      simp [tripletsBits, List.range'_succ]

/-- The latch gap after a frame, empty or not (R204, R207). -/
theorem frame_done (s : State) (h : 1 < s.lines.length) :
    latchGap (emitTriplets s.px.n.toNat 0 s) =
      pxDone s ((tripletsBits s s.px.n.toNat 0).flatMap (Spec.cellEvents s.cfg) ++ [.drive 1 .l] ++
        Spec.waited s.cfg.tLatch) := by
  have hg : ∀ t : State, 1 < t.lines.length →
      latchGap t = pxDone t ([.drive 1 .l] ++ Spec.waited t.cfg.tLatch) := by
    intro t ht; rw [latchGap_eq t ht]; simp [pxDone, logTime]
  rcases Nat.eq_zero_or_pos s.px.n.toNat with h0 | h0
  · rw [h0, emitTriplets, hg s h]; simp [tripletsBits]
  · rw [emitTriplets_done _ _ s h h0, hg _ (by simpa using h), pxDone_pxDone s _ _ h]
    simp

/-- The bits of one triplet, in the words of R206. -/
theorem tripletBits_eq (px : List Triplet) (i : Nat) :
    (List.range' (24 * i) 24).map (Spec.frameBit px) = tripletBits (px.getD i blackTriplet) := by
  have hb : ∀ (b : Byte) (k : Nat), byteBit b k = BitVec.ofBool (b.getLsbD k) := by
    intro b k
    apply BitVec.eq_of_getLsbD_eq
    intro j hj
    have : j = 0 := by omega
    subst this; simp [byteBit]
  have hd : ∀ j, j < 24 → Spec.frameBit px (24 * i + j) =
      BitVec.ofBool (([(px.getD i blackTriplet).g, (px.getD i blackTriplet).r, (px.getD i blackTriplet).b].getD
        (j / 8) 0).getLsbD (7 - j % 8)) := by
    intro j hj
    have h1 : (24 * i + j) / 24 = i := by omega
    have h2 : (24 * i + j) / 8 % 3 = j / 8 := by omega
    have h3 : (24 * i + j) % 8 = j % 8 := by omega
    simp only [Spec.frameBit, h1, h2, h3]; rfl
  have hl : List.range' (24 * i) 24 = (List.range 24).map (fun j => 24 * i + j) := by
    rw [List.range'_eq_map_range]
  rw [hl, List.map_map]
  refine (List.map_congr_left fun j hj => hd j (List.mem_range.1 hj)).trans ?_
  simp [tripletBits, bitsMsbFirst, hb, List.range_succ]

/-- The bits of the frame are the numbered bits of R206. -/
theorem tripletsBits_eq (s : State) (n : Nat) : tripletsBits s n 0 = Spec.frameBits s.px.entries n := by
  induction n with
  | zero => simp [tripletsBits, Spec.frameBits]
  | succ n ih =>
    have h1 : tripletsBits s (n + 1) 0 = tripletsBits s n 0 ++ tripletBits (s.pixel n) := by
      simp [tripletsBits, List.range'_1_concat]
    have h2 : List.range (24 * (n + 1)) = List.range (24 * n) ++ List.range' (24 * n) 24 := by
      rw [Nat.mul_add, List.range_add, List.range'_eq_map_range]
    rw [h1, ih, Spec.frameBits, Spec.frameBits, h2, List.map_append, tripletBits_eq]; rfl

/-- PX_WRITE on an output in one equation (R204 to R207). -/
theorem pxFrame_done (s : State) (h : 1 < s.lines.length) :
    latchGap (emitTriplets s.px.n.toNat 0 s) =
      pxDone s (Spec.frameEvents s.cfg s.px.entries s.px.n.toNat) := by
  rw [frame_done s h, tripletsBits_eq]; rfl

end Sys2Proof.Machine
end

