-- ==== Sys2Proof/Laws/Memory.lean ====
section
/-! SUPPORT. The canonical form of the two internal memories: every operation on them keeps it, every other operation
leaves them alone, and the machine after reset has it. -/

namespace Sys2Proof.Machine

/-- The memories after reset are empty (R50). -/
theorem powerOn_wf (P : Config.Params) (T0 : Nat) : Memory.wf (State.powerOn P T0) := by
  simp [Memory.wf, State.powerOn]

theorem reset_wf : Memory.wf State.reset := powerOn_wf _ _

/-- The hardware reset empties both memories (R310). -/
theorem hardReset_wf (s : State) : Memory.wf (hardReset s) := by simp [Memory.wf, hardReset, State.powerOn]

/-- A state with the same memories and configuration has the form too. -/
theorem wf_of_same {s t : State} (hc : t.cfg = s.cfg) (hp : t.px = s.px) (hm : t.ma = s.ma) (h : Memory.wf s) :
    Memory.wf t := by simpa only [Memory.wf, hc, hp, hm] using h

/-- PX_INIT: `n` entries, within the capacity (R201). -/
theorem pxInit_wf {s : State} {n : BitVec 16} (h : Memory.wf s) (hn : pxSizeLegal s.cfg n = true) :
    Memory.wf { s with px := { n := n, entries := List.replicate n.toNat blackTriplet } } :=
  ⟨by simp, by simpa [pxSizeLegal] using hn, h.2.2.1, h.2.2.2⟩

/-- PX_SET: the length stays (R202). -/
theorem pxSet_wf {s : State} (i : Nat) (t : Triplet) (h : Memory.wf s) :
    Memory.wf { s with px := { s.px with entries := s.px.entries.set i t } } :=
  ⟨by simpa using h.1, h.2.1, h.2.2.1, h.2.2.2⟩

/-- PX_FILL: the length stays (R203). -/
theorem pxFill_wf {s : State} (t : Triplet) (h : Memory.wf s) :
    Memory.wf { s with px := { s.px with entries := List.replicate s.px.n.toNat t } } :=
  ⟨by simp, h.2.1, h.2.2.1, h.2.2.2⟩

/-- MA_INIT: an empty window, its size within the capacity (R262). -/
theorem maInit_wf {s : State} {n : BitVec 16} (h : Memory.wf s) (hn : maSizeLegal s.cfg n = true) :
    Memory.wf { s with ma := { size := n, buf := [] } } :=
  ⟨h.1, h.2.1, by simp, by simpa [maSizeLegal] using hn⟩

/-- MA_RESET (R264). -/
theorem maReset_wf {s : State} (h : Memory.wf s) : Memory.wf { s with ma := { s.ma with buf := [] } } :=
  ⟨h.1, h.2.1, by simp, h.2.2.2⟩

/-- Appending and evicting keeps a window within its size (R263, R266). -/
theorem addSample_length {size : Nat} {buf : List Word} (h : buf.length ≤ size) (x : Word) :
    (addSample size buf x).length ≤ size := by
  unfold addSample
  split <;> simp at * <;> omega

/-- MA_ADD (R263). -/
theorem maAdd_wf {s : State} (x : Word) (h : Memory.wf s) :
    Memory.wf { s with ma := { s.ma with buf := addSample s.ma.size.toNat s.ma.buf x } } :=
  ⟨h.1, h.2.1, addSample_length h.2.2.1 x, h.2.2.2⟩

/-- The operations on lines, time and the environment leave the memories alone. -/
theorem owDone_wf {s : State} (d : Nat) (es : List Event) (k : Nat) (h : Memory.wf s) :
    Memory.wf (owDone s d es k) := wf_of_same rfl rfl rfl h

theorem pxDone_wf {s : State} (es : List Event) (h : Memory.wf s) : Memory.wf (pxDone s es) :=
  wf_of_same rfl rfl rfl h

theorem wait_wf {s : State} (d : Nat) (h : Memory.wf s) : Memory.wf (wait d s) :=
  wf_of_same (by simp) (by simp) (by simp) h

theorem drive_wf {s : State} (l : Nat) (d : Dir) (o : Bit) (h : Memory.wf s) : Memory.wf (drive l d o s) :=
  wf_of_same rfl rfl rfl h

theorem release_wf {s : State} (l : Nat) (h : Memory.wf s) : Memory.wf (release l s) := wf_of_same rfl rfl rfl h

theorem setPull_wf {s : State} (l : Nat) (p : Pull) (h : Memory.wf s) : Memory.wf (setPull l p s) :=
  wf_of_same rfl rfl rfl h

theorem sample_wf {s : State} (l : Nat) (h : Memory.wf s) : Memory.wf (sample l s).2 :=
  wf_of_same (by simp [sample_eq]) (by simp [sample_eq]) (by simp [sample_eq]) h

theorem respond_wf {s : State} (st : Status) (d : Word) (h : Memory.wf s) : Memory.wf (respond st d s) :=
  wf_of_same rfl rfl rfl h

theorem raise_wf {s : State} (e : Exception) (h : Memory.wf s) : Memory.wf (raise e s) := wf_of_same rfl rfl rfl h

theorem setSeq_wf {s : State} (q : Sequencer) (h : Memory.wf s) : Memory.wf (s.setSeq q) := wf_of_same rfl rfl rfl h

end Sys2Proof.Machine
end

