-- ==== Sys2Proof/Laws/PerInstr.lean ====
section
/-! SUPPORT. A law of every command as syntax, one lemma per command: the word the encoder writes has the opcode's number
in bits 31 to 24 and zeros in every must-be-zero bit of the opcode's format (R82, R83). -/

namespace Sys2Proof.Laws

/-- Two words that share no 1 bit. -/
theorem and_eq_zero_of_bits {a m : Word} (h : ∀ j, j < 32 → (a.getLsbD j && m.getLsbD j) = false) : a &&& m = 0 := by
  apply BitVec.eq_of_getLsbD_eq
  intro j hj
  simpa using h j hj

/-- The encoder's word is one of its format. -/
def EncodedWord.Statement (i : Instr) : Prop :=
  opField (encode i).1 = i.opcode.code ∧ (encode i).1 &&& i.opcode.format.mbz = 0

/-- The opcode field, whatever the operands. -/
theorem opField_encode (i : Instr) : opField (encode i).1 = i.opcode.code := by simp [encode]

theorem EncodedWord.nowMs : EncodedWord.Statement .nowMs :=
  ⟨opField_encode _, by decide⟩

theorem EncodedWord.nowUs : EncodedWord.Statement .nowUs :=
  ⟨opField_encode _, by decide⟩

theorem EncodedWord.elapsedMs (since : _) : EncodedWord.Statement (.elapsedMs since) :=
  ⟨opField_encode _, show packWord 0x12 0 &&& 0x00FFFFFF = 0 by decide⟩

theorem EncodedWord.elapsedUs (since : _) : EncodedWord.Statement (.elapsedUs since) :=
  ⟨opField_encode _, show packWord 0x13 0 &&& 0x00FFFFFF = 0 by decide⟩

theorem EncodedWord.tmStart : EncodedWord.Statement .tmStart :=
  ⟨opField_encode _, by decide⟩

theorem EncodedWord.tmElapsed : EncodedWord.Statement .tmElapsed :=
  ⟨opField_encode _, by decide⟩

theorem EncodedWord.dlSetDir (line : _) (dir : _) : EncodedWord.Statement (.dlSetDir line dir) :=
  ⟨opField_encode _, and_eq_zero_of_bits fun j hj => by
    simp only [encode, Instr.opcode, Opcode.code, Opcode.format, Format.mbz, Instr.fieldA]
    interval_cases j <;> simp [-BitVec.getLsbD_eq_getElem, packWord_getLsbD, packBytes_getLsbD]⟩

theorem EncodedWord.dlSetPull (line : _) (pull : _) : EncodedWord.Statement (.dlSetPull line pull) :=
  ⟨opField_encode _, and_eq_zero_of_bits fun j hj => by
    simp only [encode, Instr.opcode, Opcode.code, Opcode.format, Format.mbz, Instr.fieldA]
    interval_cases j <;> simp [-BitVec.getLsbD_eq_getElem, packWord_getLsbD, packBytes_getLsbD]⟩

theorem EncodedWord.dlWrite (line : _) (level : _) : EncodedWord.Statement (.dlWrite line level) :=
  ⟨opField_encode _, and_eq_zero_of_bits fun j hj => by
    simp only [encode, Instr.opcode, Opcode.code, Opcode.format, Format.mbz, Instr.fieldA]
    interval_cases j <;> simp [-BitVec.getLsbD_eq_getElem, packWord_getLsbD, packBytes_getLsbD]⟩

theorem EncodedWord.dlRead (line : _) : EncodedWord.Statement (.dlRead line) :=
  ⟨opField_encode _, and_eq_zero_of_bits fun j hj => by
    simp only [encode, Instr.opcode, Opcode.code, Opcode.format, Format.mbz, Instr.fieldA]
    interval_cases j <;> simp [-BitVec.getLsbD_eq_getElem, packWord_getLsbD, packBytes_getLsbD]⟩

theorem EncodedWord.owReset : EncodedWord.Statement .owReset :=
  ⟨opField_encode _, by decide⟩

theorem EncodedWord.owWriteBit (bit : _) : EncodedWord.Statement (.owWriteBit bit) :=
  ⟨opField_encode _, and_eq_zero_of_bits fun j hj => by
    simp only [encode, Instr.opcode, Opcode.code, Opcode.format, Format.mbz, Instr.fieldA]
    interval_cases j <;> simp [-BitVec.getLsbD_eq_getElem, packWord_getLsbD]⟩

theorem EncodedWord.owReadBit : EncodedWord.Statement .owReadBit :=
  ⟨opField_encode _, by decide⟩

theorem EncodedWord.owWriteByte (byte : _) : EncodedWord.Statement (.owWriteByte byte) :=
  ⟨opField_encode _, and_eq_zero_of_bits fun j hj => by
    simp only [encode, Instr.opcode, Opcode.code, Opcode.format, Format.mbz, Instr.fieldA]
    interval_cases j <;> simp [-BitVec.getLsbD_eq_getElem, packWord_getLsbD, packBytes_getLsbD]⟩

theorem EncodedWord.owReadByte : EncodedWord.Statement .owReadByte :=
  ⟨opField_encode _, by decide⟩

theorem EncodedWord.pxInit (n : _) : EncodedWord.Statement (.pxInit n) :=
  ⟨opField_encode _, and_eq_zero_of_bits fun j hj => by
    simp only [encode, Instr.opcode, Opcode.code, Opcode.format, Format.mbz, Instr.fieldA]
    interval_cases j <;> simp [-BitVec.getLsbD_eq_getElem, packWord_getLsbD]⟩

theorem EncodedWord.pxSet (index : _) (r : _) (g : _) (b : _) : EncodedWord.Statement (.pxSet index r g b) :=
  ⟨opField_encode _, by simp [Instr.opcode, Opcode.format, Format.mbz]⟩

theorem EncodedWord.pxFill (r : _) (g : _) (b : _) : EncodedWord.Statement (.pxFill r g b) :=
  ⟨opField_encode _, by simp [Instr.opcode, Opcode.format, Format.mbz]⟩

theorem EncodedWord.pxWrite : EncodedWord.Statement .pxWrite :=
  ⟨opField_encode _, by decide⟩

theorem EncodedWord.svAngle (x : _) : EncodedWord.Statement (.svAngle x) :=
  ⟨opField_encode _, show packWord 0x50 0 &&& 0x00FFFFFF = 0 by decide⟩

theorem EncodedWord.svPulse (x : _) : EncodedWord.Statement (.svPulse x) :=
  ⟨opField_encode _, show packWord 0x51 0 &&& 0x00FFFFFF = 0 by decide⟩

theorem EncodedWord.dbInit (level : _) (thr : _) (now : _) : EncodedWord.Statement (.dbInit level thr now) :=
  ⟨opField_encode _, by simp [Instr.opcode, Opcode.format, Format.mbz]⟩

theorem EncodedWord.dbRead (level : _) (now : _) : EncodedWord.Statement (.dbRead level now) :=
  ⟨opField_encode _, and_eq_zero_of_bits fun j hj => by
    simp only [encode, Instr.opcode, Opcode.code, Opcode.format, Format.mbz, Instr.fieldA]
    interval_cases j <;> simp [-BitVec.getLsbD_eq_getElem, packWord_getLsbD, packLevel_getLsbD]⟩

theorem EncodedWord.maInit (n : _) : EncodedWord.Statement (.maInit n) :=
  ⟨opField_encode _, and_eq_zero_of_bits fun j hj => by
    simp only [encode, Instr.opcode, Opcode.code, Opcode.format, Format.mbz, Instr.fieldA]
    interval_cases j <;> simp [-BitVec.getLsbD_eq_getElem, packWord_getLsbD]⟩

theorem EncodedWord.maAdd (x : _) : EncodedWord.Statement (.maAdd x) :=
  ⟨opField_encode _, show packWord 0x71 0 &&& 0x00FFFFFF = 0 by decide⟩

theorem EncodedWord.maAvg : EncodedWord.Statement .maAvg :=
  ⟨opField_encode _, by decide⟩

theorem EncodedWord.maReset : EncodedWord.Statement .maReset :=
  ⟨opField_encode _, by decide⟩

end Sys2Proof.Laws
end

