-- ==== Sys2Proof/Machine/Script.lean ====
section
/-! DEFINITION. The textual form of a command and of a script (30_encoding R91): text to commands, idle steps, the
environment's answers and expected responses, and such a script as the `inputs` and `answers` of a state. -/

namespace Sys2Proof.Machine

/-! ### Words of a line -/

/-- A blank. -/
def isBlank (c : Char) : Bool := c == ' ' || c == '\t'

/-- The text up to the comment sign. -/
def withoutComment (cs : List Char) : List Char := cs.takeWhile (fun c => c != ';')

/-- The text without blanks at either end. -/
def trimmed (cs : List Char) : List Char :=
  ((cs.dropWhile isBlank).reverse.dropWhile isBlank).reverse

/-- The pieces between commas. -/
def splitCommas : List Char → List (List Char)
  | [] => [[]]
  | c :: cs =>
    match c == ',', splitCommas cs with
    | true, ws => [] :: ws
    | false, [] => [[c]]
    | false, w :: ws => (c :: w) :: ws

/-- The operands of a command: none, or the pieces between commas. -/
def operandTexts (cs : List Char) : List (List Char) :=
  if trimmed cs = [] then [] else (splitCommas cs).map trimmed

/-! ### Numbers -/

/-- The value of a digit, at most 15. -/
def digitValue (c : Char) : Option Nat :=
  if '0' ≤ c ∧ c ≤ '9' then some (c.toNat - '0'.toNat)
  else if 'a' ≤ c ∧ c ≤ 'f' then some (c.toNat - 'a'.toNat + 10)
  else if 'A' ≤ c ∧ c ≤ 'F' then some (c.toNat - 'A'.toNat + 10)
  else none

/-- Digits in a base, `acc` the value so far. -/
def readDigits (base : Nat) : List Char → Nat → Option Nat
  | [], acc => some acc
  | c :: cs, acc =>
    match digitValue c with
    | some d => if d < base then readDigits base cs (acc * base + d) else none
    | none => none

/-- A number: decimal, or hexadecimal with the two characters `0x` before it. -/
def readNat : List Char → Option Nat
  | [] => none
  | '0' :: 'x' :: c :: cs => readDigits 16 (c :: cs) 0
  | c :: cs => readDigits 10 (c :: cs) 0

/-- A number that may carry a minus sign. -/
def readInt : List Char → Option Int
  | '-' :: cs => (readNat cs).map (fun n => -(n : Int))
  | cs => (readNat cs).map (fun n => (n : Int))

/-- A number that fits its field. -/
def readField (w : Nat) (cs : List Char) : Option (BitVec w) :=
  match readNat cs with
  | some n => if n < 2 ^ w then some (BitVec.ofNat w n) else none
  | none => none

/-- An `x` operand: `ARG = u32(x)`. A number that 32 bits hold neither as signed nor as unsigned is no operand
(DESIGN CHOICE, safe; notes/assumptions/16.md). -/
def readSigned (cs : List Char) : Option Word :=
  match readInt cs with
  | some x => if -(2 ^ 31) ≤ x ∧ x < 2 ^ 32 then some (u32 x) else none
  | none => none

/-- A direction: `IN`, `OUT` or its code. -/
def readDir (cs : List Char) : Option Dir :=
  if cs = "IN".toList then some .input
  else if cs = "OUT".toList then some .output
  else (readField 8 cs).bind Dir.ofCode

/-- A pull: `NONE`, `UP`, `DOWN` or its code. -/
def readPull (cs : List Char) : Option Pull :=
  if cs = "NONE".toList then some .none
  else if cs = "UP".toList then some .pullUp
  else if cs = "DOWN".toList then some .pullDown
  else (readField 8 cs).bind Pull.ofCode

/-! ### Commands -/

/-- A command without operands. -/
def take0 (i : Instr) : List (List Char) → Option Instr
  | [] => some i
  | _ :: _ => none

/-- A command with one operand. -/
def take1 {α : Type} (f : α → Instr) (ra : List Char → Option α) : List (List Char) → Option Instr
  | [a] => (ra a).map f
  | [] | _ :: _ :: _ => none

/-- A command with two operands. -/
def take2 {α β : Type} (f : α → β → Instr) (ra : List Char → Option α) (rb : List Char → Option β) :
    List (List Char) → Option Instr
  | [a, b] => (ra a).bind (fun x => (rb b).map (f x))
  | [] | [_] | _ :: _ :: _ :: _ => none

/-- A command with three operands. -/
def take3 {α β γ : Type} (f : α → β → γ → Instr) (ra : List Char → Option α) (rb : List Char → Option β)
    (rc : List Char → Option γ) : List (List Char) → Option Instr
  | [a, b, c] => (ra a).bind (fun x => (rb b).bind (fun y => (rc c).map (f x y)))
  | [] | [_] | [_, _] | _ :: _ :: _ :: _ :: _ => none

/-- The operands of each command, in the order of the table of R91. -/
def readCommand (op : Opcode) (args : List (List Char)) : Option Instr :=
  match op with
  | .nowMs => take0 .nowMs args
  | .nowUs => take0 .nowUs args
  | .elapsedMs => take1 Instr.elapsedMs (readField 32) args
  | .elapsedUs => take1 Instr.elapsedUs (readField 32) args
  | .tmStart => take0 .tmStart args
  | .tmElapsed => take0 .tmElapsed args
  | .dlSetDir => take2 Instr.dlSetDir (readField 8) readDir args
  | .dlSetPull => take2 Instr.dlSetPull (readField 8) readPull args
  | .dlWrite => take2 Instr.dlWrite (readField 8) (readField 1) args
  | .dlRead => take1 Instr.dlRead (readField 8) args
  | .owReset => take0 .owReset args
  | .owWriteBit => take1 Instr.owWriteBit (readField 1) args
  | .owReadBit => take0 .owReadBit args
  | .owWriteByte => take1 Instr.owWriteByte (readField 8) args
  | .owReadByte => take0 .owReadByte args
  | .pxInit => take1 Instr.pxInit (readField 16) args
  | .pxSet =>
    match args with
    | [] => none
    | index :: colour =>
      (readField 32 index).bind
        (fun i => take3 (Instr.pxSet i) (readField 8) (readField 8) (readField 8) colour)
  | .pxFill => take3 Instr.pxFill (readField 8) (readField 8) (readField 8) args
  | .pxWrite => take0 .pxWrite args
  | .svAngle => take1 Instr.svAngle readSigned args
  | .svPulse => take1 Instr.svPulse readSigned args
  | .dbInit => take3 Instr.dbInit (readField 1) (readField 23) (readField 32) args
  | .dbRead => take2 Instr.dbRead (readField 1) (readField 32) args
  | .maInit => take1 Instr.maInit (readField 16) args
  | .maAdd => take1 Instr.maAdd readSigned args
  | .maAvg => take0 .maAvg args
  | .maReset => take0 .maReset args

/-! ### Lines -/

/-- One line of a script. -/
inductive ScriptLine where
  /-- nothing but blanks and a comment -/
  | blank
  | command (i : Instr)
  /-- an idle step of `d` nanoseconds -/
  | idle (d : Nat)
  /-- the environment's answers, one per sample, in order -/
  | env (exts : List Ext)
  /-- the expected response of the command before -/
  | expect (status : Status) (data : Word)
  deriving DecidableEq, Repr

/-- A duration, its suffix `us` or `ms` multiplying by 1000 or 1000000. -/
def readDuration (cs : List Char) : Option Nat :=
  match cs.reverse with
  | 's' :: 'u' :: ds => (readNat ds.reverse).map (fun n => n * 1000)
  | 's' :: 'm' :: ds => (readNat ds.reverse).map (fun n => n * 1000000)
  | _ => readNat cs

/-- One answer of the environment. -/
def readExt (cs : List Char) : Option Ext :=
  if cs = "Z".toList then some .z
  else if cs = "L".toList then some .l
  else if cs = "H".toList then some .h
  else none

/-- A status by its name (R84). -/
def readStatus (cs : List Char) : Option Status :=
  if cs = "OK".toList then some .ok
  else if cs = "INVALID_STATE".toList then some .invalidState
  else if cs = "ILLEGAL".toList then some .illegal
  else none

/-- An expected response. -/
def readExpect : List (List Char) → Option ScriptLine
  | [st, data] => (readStatus st).bind (fun v => (readSigned data).map (ScriptLine.expect v))
  | [] | [_] | _ :: _ :: _ :: _ => none

/-- The rest of a line, by its first word. -/
def readWordLine (word rest : List Char) : Option ScriptLine :=
  if word = [] then some .blank
  else if word = "IDLE".toList then (readDuration (trimmed rest)).map ScriptLine.idle
  else if word = "ENV".toList then ((operandTexts rest).mapM readExt).map ScriptLine.env
  else if word = "->".toList then readExpect (operandTexts rest)
  else
    match Opcode.all.find? (fun o => o.mnemonic.toList == word) with
    | some op => (readCommand op (operandTexts rest)).map ScriptLine.command
    | none => none

/-- One line of text. -/
def readLineText (text : String) : Option ScriptLine :=
  let cs := trimmed (withoutComment text.toList)
  readWordLine (cs.takeWhile (fun c => !isBlank c)) (cs.dropWhile (fun c => !isBlank c))

/-! ### Scripts -/

/-- What the host and the environment do, line by line. -/
def scriptInputs : List ScriptLine → List Input
  | [] => []
  | .command i :: ls => .command (encode i).1 (encode i).2 :: scriptInputs ls
  | .idle d :: ls => .idle d :: scriptInputs ls
  | .blank :: ls | .env _ :: ls | .expect _ _ :: ls => scriptInputs ls

/-- The environment's answers in order. -/
def scriptExts : List ScriptLine → List Ext
  | [] => []
  | .env exts :: ls => exts ++ scriptExts ls
  | .blank :: ls | .command _ :: ls | .idle _ :: ls | .expect _ _ :: ls => scriptExts ls

/-- The state with a script to run. The text gives no draw for a floating line (R136), so the draws are an argument: a
statement about a script holds for all of them. -/
def State.loadScript (s : State) (draw : Nat → Bit) (ls : List ScriptLine) : State :=
  { s with
    inputs := scriptInputs ls
    answers := (scriptExts ls).zipIdx.map (fun a => ⟨a.1, draw a.2⟩) }

end Sys2Proof.Machine
end

