-- ==== Sys2Proof/Tests/Slice0.lean ====
section
/-! SUPPORT. The model's own tests: words written out from 30_encoding, the refusals of the checks, one-step results taken
from 95_test_vectors or computed by hand from a rule, and for every statement with hypotheses a state and operands that
meet them together. -/

namespace Sys2Proof.Tests

open Machine

/-- The default configuration of R6. -/
def P0 : Config.Params := Config.Params.default

/-- The narrowest counter, the smallest block and no recovery or read wait: R6 allows each. -/
def Pleast : Config.Params := { P0 with tickBits := 1, numLines := 2, tRstrec := 0, tRwait := 0, pxMax := 0, maMax := 0 }

/-- The largest block that R6 allows. -/
def Pmost : Config.Params := { P0 with numLines := 256, pxMax := 65535, maMax := 65535 }

/-- The machine after reset at hidden time `T`. -/
def atTime (T : Nat) : State := State.powerOn P0 T

/-- The machine after reset with these registers on line `l`. -/
def withLine (l : Nat) (ln : Line) : State := State.reset.setLine l ln

/-- The machine after reset with these answers of the environment. -/
def withAnswers (as : List EnvAnswer) : State := { State.reset with answers := as }

/-- The machine after reset with this script. -/
def withScript (ins : List Input) : State := { State.reset with inputs := ins }

/-- The machine after reset with line 1 an output at low and this buffer. -/
def withPixels (ts : List Triplet) : State :=
  { withLine 1 { dir := .output, pull := .none, out := 0 } with
    px := { n := BitVec.ofNat 16 ts.length, entries := ts } }

/-- The machine after reset with this window. -/
def withWindow (size : BitVec 16) (buf : List Word) : State := { State.reset with ma := { size := size, buf := buf } }

/-- The machine after reset with this debouncer. -/
def withDebouncer (acc : Bit) (last : Word) (thr : BitVec 23) : State :=
  { State.reset with db := { acc := acc, last := last, thr := thr } }

/-- Something of the next state. -/
def seen {α : Type} (f : State → α) (o : Host.Outcome State Fault Refusal) : Option α :=
  match o with
  | .next t => some (f t)
  | .fault _ => none
  | .refused _ => none

/-- The status and the data of the response. -/
def answer (t : State) : Nat × Nat := (t.port.rspStatus.toNat, t.port.rspData.toNat)

/-- How far the hidden time and the log got. -/
def spent (t : State) : Nat × Nat := (t.time, t.log.length)

def low : EnvAnswer := { ext := .l, draw := 0 }
def high : EnvAnswer := { ext := .h, draw := 0 }
def float (b : Bit) : EnvAnswer := { ext := .z, draw := b }
def outLow : Line := { dir := .output, pull := .none, out := 0 }

/-! ### Well-formedness: each check refuses an ill-formed term (R88) -/

theorem test_wf_line_dir : (Instr.dlSetDir 4 .output).wellFormed P0 = false := by decide
theorem test_wf_line_pull : (Instr.dlSetPull 4 .pullUp).wellFormed P0 = false := by decide
theorem test_wf_line_write : (Instr.dlWrite 255 1).wellFormed P0 = false := by decide
theorem test_wf_line_read : (Instr.dlRead 4).wellFormed P0 = false := by decide
theorem test_wf_pxInit : (Instr.pxInit 257).wellFormed P0 = false := by decide
theorem test_wf_maInit : (Instr.maInit 65).wellFormed P0 = false := by decide
theorem test_wf_boundary : (Instr.dlRead 3).wellFormed P0 = true ∧ (Instr.pxInit 256).wellFormed P0 = true ∧
    (Instr.maInit 64).wellFormed P0 = true := by decide

/-! ### Decode: one word per command, from R83 and R86 -/

theorem test_decode_nowMs : decode P0 0x10000000 0xDEADBEEF = .ok .nowMs := by decide
theorem test_decode_nowUs : decode P0 0x11000000 0 = .ok .nowUs := by decide
theorem test_decode_elapsedMs : decode P0 0x12000000 0x1324 = .ok (.elapsedMs 4900) := by decide
theorem test_decode_elapsedUs : decode P0 0x13000000 0x80000001 = .ok (.elapsedUs 0x80000001) := by decide
theorem test_decode_tmStart : decode P0 0x14000000 0 = .ok .tmStart := by decide
theorem test_decode_tmElapsed : decode P0 0x15000000 0 = .ok .tmElapsed := by decide
theorem test_decode_dlSetDir : decode P0 0x20000301 0 = .ok (.dlSetDir 3 .output) := by decide
theorem test_decode_dlSetPull : decode P0 0x21000102 0 = .ok (.dlSetPull 1 .pullDown) := by decide
theorem test_decode_dlWrite : decode P0 0x22000201 0 = .ok (.dlWrite 2 1) := by decide
theorem test_decode_dlRead : decode P0 0x23000300 0 = .ok (.dlRead 3) := by decide
theorem test_decode_owReset : decode P0 0x30000000 0 = .ok .owReset := by decide
theorem test_decode_owWriteBit : decode P0 0x31000001 0 = .ok (.owWriteBit 1) := by decide
theorem test_decode_owReadBit : decode P0 0x32000000 0 = .ok .owReadBit := by decide
theorem test_decode_owWriteByte : decode P0 0x330000CC 0 = .ok (.owWriteByte 0xCC) := by decide
theorem test_decode_owReadByte : decode P0 0x34000000 0 = .ok .owReadByte := by decide
theorem test_decode_pxInit : decode P0 0x40000100 0 = .ok (.pxInit 256) := by decide
theorem test_decode_pxSet : decode P0 0x41112233 7 = .ok (.pxSet 7 0x11 0x22 0x33) := by decide
theorem test_decode_pxFill : decode P0 0x42112233 0 = .ok (.pxFill 0x11 0x22 0x33) := by decide
theorem test_decode_pxWrite : decode P0 0x43000000 0 = .ok .pxWrite := by decide
theorem test_decode_svAngle : decode P0 0x50000000 0xFFFFFFF6 = .ok (.svAngle (-10)) := by decide
theorem test_decode_svPulse : decode P0 0x51000000 1500 = .ok (.svPulse 1500) := by decide
theorem test_decode_dbInit : decode P0 0x60C00001 9 = .ok (.dbInit 1 0x400001 9) := by decide
theorem test_decode_dbRead : decode P0 0x61800000 1010 = .ok (.dbRead 1 1010) := by decide
theorem test_decode_maInit : decode P0 0x70000003 0 = .ok (.maInit 3) := by decide
theorem test_decode_maAdd : decode P0 0x71000000 0xFFFFFFFF = .ok (.maAdd (-1)) := by decide
theorem test_decode_maAvg : decode P0 0x72000000 0 = .ok .maAvg := by decide
theorem test_decode_maReset : decode P0 0x73000000 0 = .ok .maReset := by decide

/-- The numbering of the table: `CMD` in bits 31 to 0, `ARG` in bits 63 to 32. -/
theorem test_decodeTableWord : decodeTableWord 64 0x000003E860800032 = some (.dbInit 1 50 1000) ∧
    decodeTableWord 32 0x20000301 = some (.dlSetDir 3 .output) ∧ decodeTableWord 32 0x20000401 = none := by decide

/-- The refusals of R88 by name; the must-be-zero check comes before the ranges (R90). -/
theorem test_decode_errors :
    decode P0 0x24000000 0 = .error .unknownOpcode ∧ decode P0 0x10000001 0 = .error .mustBeZero ∧
    decode P0 0x20010401 0 = .error .mustBeZero ∧ decode P0 0x20000401 0 = .error .noSuchLine ∧
    decode P0 0x21000003 0 = .error .badOperandCode ∧ decode P0 0x23000001 0 = .error .badOperandCode ∧
    decode P0 0x40000101 0 = .error .overCapacity ∧ decode P0 0x70000041 0 = .error .overCapacity := by decide

/-! ### TimeBase and Timer (V-TB-1, V-TB-3, V-TB-4, V-TB-6) -/

theorem test_nowMs : seen answer (exec .nowMs (atTime 1234567890)) = some (0, 1234) := by decide
theorem test_nowUs : seen answer (exec .nowUs (atTime 1234567890)) = some (0, 1234567) := by decide
theorem test_elapsedMs : seen answer (exec (.elapsedMs 4900) (atTime 5000000000)) = some (0, 100) := by decide
theorem test_elapsedMs_future :
    seen answer (exec (.elapsedMs 5001) (atTime 5000000000)) = some (0, 4294967295) := by decide
theorem test_elapsedUs_narrow :
    seen answer (exec (.elapsedUs 0x1FFFA)
      (State.powerOn { Config.Params.default with tickBits := 16 } 65540000)) = some (0, 10) := by decide
theorem test_tmStart :
    seen (fun t => t.tmStart.toNat) (exec .tmStart (atTime 4294967246000000)) = some 4294967246 := by decide
theorem test_tmElapsed_wraps :
    seen answer (exec .tmElapsed { atTime 4294967346000000 with tmStart := 4294967246 }) = some (0, 100) := by decide

/-! ### DigitalLine (R130 to R133) -/

theorem test_dlSetDir_low : seen (fun t => (t.line 3, t.log.getLast?)) (exec (.dlSetDir 3 .output) State.reset)
    = some (outLow, some (.drive 3 .l)) := by decide
theorem test_dlSetDir_input : seen (fun t => t.log.getLast?)
    (exec (.dlSetDir 2 .input) (withLine 2 { dir := .output, pull := .none, out := 1 })) =
      some (some (.drive 2 .z)) := by decide
theorem test_dlSetPull : seen (fun t => ((t.line 2).pull, (t.line 2).dir, t.log.getLast?))
    (exec (.dlSetPull 2 .pullDown) State.reset) =
      some (.pullDown, .input, some (.pull 2 .pullDown)) := by decide
theorem test_dlWrite : seen (fun t => ((t.line 3).out, t.log.getLast?)) (exec (.dlWrite 3 1) (withLine 3 outLow)) =
    some (1, some (.drive 3 .h)) := by decide
theorem test_dlWrite_input : seen (fun t => (answer t, (t.line 3).out)) (exec (.dlWrite 3 1) State.reset) =
    some ((1, 0), 0) := by decide
theorem test_dlRead_pullUp : seen answer
    (exec (.dlRead 2) { withLine 2 { dir := .input, pull := .pullUp, out := 0 } with answers := [float 0] }) =
      some (0, 1) := by decide
theorem test_dlRead_output : seen answer (exec (.dlRead 3) (withLine 3 outLow)) = some (1, 0) := by decide

/-! ### OneWireBus (R151 to R155, R157) -/

theorem test_owReset_present : seen (fun t => (answer t, spent t)) (exec .owReset (withAnswers [low])) =
    some ((0, 1), (960000, 15)) := by decide
theorem test_owReset_absent : seen answer (exec .owReset (withAnswers [float 0])) = some (0, 0) := by decide
theorem test_owWriteBit_one : seen (fun t => t.log.drop 8) (exec (.owWriteBit 1) State.reset) =
    some [.drive 0 .l, .wait 1000, .drive 0 .z, .wait 59000] := by decide
theorem test_owWriteBit_zero : seen (fun t => t.log.drop 8) (exec (.owWriteBit 0) State.reset) =
    some [.drive 0 .l, .wait 60000, .drive 0 .z] := by decide
theorem test_owReadBit : seen (fun t => (answer t, t.log.drop 8)) (exec .owReadBit (withAnswers [high])) =
    some ((0, 1), [.drive 0 .l, .wait 2000, .drive 0 .z, .wait 8000, .sample 0 .h 1, .wait 40000]) := by decide
theorem test_owWriteByte : seen (fun t => lowTimes 0 t.log) (exec (.owWriteByte 0xCC) State.reset) =
    some [60000, 60000, 1000, 1000, 60000, 60000, 1000, 1000] := by decide
theorem test_owReadByte : seen (fun t => (answer t, t.time))
    (exec .owReadByte (withAnswers [high, low, high, low, low, low, low, high])) =
      some ((0, 0x85), 400000) := by decide

/-! ### PixelBuffer and PixelBus (R201 to R208) -/

theorem test_pxInit : seen (fun t => t.px) (exec (.pxInit 2) State.reset) =
    some { n := 2, entries := [⟨0, 0, 0⟩, ⟨0, 0, 0⟩] } := by decide
theorem test_pxInit_over : seen answer (exec (.pxInit 257) State.reset) = some (2, 0) := by decide
theorem test_pxSet : seen (fun t => t.px.entries) (exec (.pxSet 1 1 2 3) (withPixels [⟨9, 9, 9⟩, ⟨0, 0, 0⟩])) =
    some [⟨9, 9, 9⟩, ⟨1, 2, 3⟩] := by decide
theorem test_pxSet_beyond : seen (fun t => (answer t, t.px.entries))
    (exec (.pxSet 0x80000001 1 2 3) (withPixels [⟨9, 9, 9⟩, ⟨0, 0, 0⟩])) =
      some ((0, 0), [⟨9, 9, 9⟩, ⟨0, 0, 0⟩]) := by decide
theorem test_pxFill : seen (fun t => t.px.entries) (exec (.pxFill 1 2 3) (withPixels [⟨9, 9, 9⟩, ⟨0, 0, 0⟩])) =
    some [⟨1, 2, 3⟩, ⟨1, 2, 3⟩] := by decide
set_option maxRecDepth 20000 in
/-- V-PX-1: green first, most significant bit first; 24 bits of 1250 ns each and the gap. -/
theorem test_pxWrite : seen (fun t => (t.time, ((wave 1 .l (t.log.drop 8)).take 4)))
    (exec .pxWrite (withPixels [⟨0xFF, 0x80, 0x00⟩])) =
      some (24 * 1250 + 50000, [(.h, 800), (.l, 450), (.h, 400), (.l, 850)]) := by decide
theorem test_pxWrite_input : seen (fun t => (answer t, spent t)) (exec .pxWrite State.reset) =
    some ((1, 0), (0, 8)) := by decide

/-! ### ServoMapper (S2, R230, R231) -/

theorem test_svAngle_negative : seen answer (exec (.svAngle (-10)) State.reset) = some (0, 0) := by decide
theorem test_svAngle_middle : seen answer (exec (.svAngle 90) State.reset) = some (0, 511) := by decide
theorem test_svPulse : seen answer (exec (.svPulse 1500) State.reset) = some (0, 76) := by decide
theorem test_svPulse_over : seen answer (exec (.svPulse 0x7FFFFFFF) State.reset) = some (0, 1023) := by decide

/-! ### Debouncer (R245, R246): the boundary at exactly the threshold -/

theorem test_dbInit : seen (fun t => t.db) (exec (.dbInit 1 50 1000) State.reset) =
    some { acc := 1, last := 1000, thr := 50 } := by decide
theorem test_dbRead_at_threshold : seen (fun t => (answer t, t.db.last.toNat))
    (exec (.dbRead 1 1050) (withDebouncer 0 1000 50)) = some ((0, 0), 1000) := by decide
theorem test_dbRead_past_threshold : seen (fun t => (answer t, t.db.last.toNat))
    (exec (.dbRead 1 1051) (withDebouncer 0 1000 50)) = some ((0, 1), 1051) := by decide

/-! ### MovingAverage (S3, R265) -/

theorem test_maInit : seen (fun t => (t.ma.size.toNat, t.ma.buf)) (exec (.maInit 3) (withWindow 2 [7])) =
    some (3, []) := by decide
theorem test_maAdd_evicts : seen (fun t => t.ma.buf) (exec (.maAdd 40) (withWindow 3 [10, 20, 30])) =
    some [20, 30, 40] := by decide
theorem test_maAdd_size_zero : seen (fun t => t.ma.buf) (exec (.maAdd 40) (withWindow 0 [])) = some [] := by decide
theorem test_maAvg : seen answer (exec .maAvg (withWindow 3 [20, 30, 40])) = some (0, 30) := by decide
/-- Toward zero: -3 by 2 is -1. -/
theorem test_maAvg_negative : seen answer (exec .maAvg (withWindow 3 [-1, -2])) = some (0, 0xFFFFFFFF) := by decide
theorem test_maReset : seen (fun t => (t.ma.size.toNat, t.ma.buf)) (exec .maReset (withWindow 2 [7])) =
    some (2, []) := by decide

/-! ### Steps -/

theorem test_step_command : seen answer (step (withScript [.command 0x50000000 180])) = some (0, 1023) := by decide
/-- The response is pending after the step that gave it, and over once the next step begins. -/
theorem test_cmdReady : State.reset.cmdReady = true ∧
    seen State.cmdReady (step (withScript [.command 0x10000000 0])) = some false ∧
    seen (fun t => (quiet t).cmdReady) (step (withScript [.command 0x10000000 0])) = some true := by decide
theorem test_step_illegal : seen (fun t => (answer t, spent t)) (step (withScript [.command 0 0])) =
    some ((2, 0), (0, 8)) := by decide
theorem test_step_phased : seen (fun t => (t.seq.phase, t.port.rspValid)) (step (withScript [.phased 0x30000000 0])) =
    some (.rLow, false) := by decide
theorem test_step_idle : seen spent (step (withScript [.idle 7])) = some (7, 9) := by decide
/-- The first three events of a write slot, then the reset (R311). -/
theorem test_step_abort : seen (fun t => (t.time, t.log.drop 8, t.port.rspValid)) (step (withScript [.abort 0x31000001 0 3])) =
    some (1000, [.drive 0 .l, .wait 1000, .drive 0 .z] ++ resetEvents 4, false) := by decide
theorem test_withFetchWord : seen answer (step (State.reset.withFetchWord 64 0x000000B450000000)) =
    some (0, 1023) := by decide

/-! ### The textual form (R91) -/

theorem test_script_command : readLineText "SV_ANGLE -10     ; S2" = some (.command (.svAngle (-10))) ∧
    readLineText "DL_SET_DIR 1, OUT" = some (.command (.dlSetDir 1 .output)) ∧
    readLineText "OW_WRITE_BYTE 0xA5" = some (.command (.owWriteByte 0xA5)) := by decide
theorem test_script_lines : readLineText "IDLE 20ms" = some (.idle 20000000) ∧
    readLineText "ENV L,Z,L" = some (.env [.l, .z, .l]) ∧ readLineText "-> OK, 0x5A" = some (.expect .ok 0x5A) := by
  decide
theorem test_script_refused : readLineText "DL_SET_PULL 2, 3" = none ∧ readLineText "NOW_MS 4" = none := by decide

/-! ### A state and operands for every statement with hypotheses -/

theorem witness_EncodedCommandsDecodeBack : (Instr.dlWrite 3 1).wellFormed P0 = true ∧
    (Instr.pxInit 256).wellFormed P0 = true ∧ (Instr.maInit 64).wellFormed P0 = true := by decide

/-- Also the boundaries of R88: the last line, the largest sizes. -/
theorem witness_DecodedWordsEncodeBack : decode P0 0x21000302 5 = .ok (.dlSetPull 3 .pullDown) ∧
    decode P0 0x40000100 5 = .ok (.pxInit 256) ∧ decode P0 0x70000040 5 = .ok (.maInit 64) ∧
    decode P0 0x41FFFFFF 0xFFFFFFFF = .ok (.pxSet 0xFFFFFFFF 255 255 255) := by decide

/-- One illegal word for each item of R88. -/
theorem witness_IllegalWordsAreThoseOfTheSpec : Spec.illegalWord P0 0x16000000 ∧ Spec.illegalWord P0 0x10000001 ∧ Spec.illegalWord P0 0x20000401 ∧
    Spec.illegalWord P0 0x21000003 ∧ Spec.illegalWord P0 0x40000101 := by
  simp [Spec.illegalWord, P0, Config.Params.default]

theorem witness_StepRunsTheDecodedCommand : (withScript [.command 0x50000000 180]).seq.phase = .idle ∧
    (withScript [.command 0x50000000 180]).inputs = .command 0x50000000 180 :: [] ∧
    decode (withScript [.command 0x50000000 180]).cfg 0x50000000 180 = .ok (.svAngle 180) ∧
    (withScript [.command 0 0]).inputs = .command 0 0 :: [] ∧
    decode (withScript [.command 0 0]).cfg 0 0 = .error .unknownOpcode := by decide

theorem witness_PlacedTableWordRunsNext :
    decode State.reset.cfg (tableCmd 64 0x000000B450000000) (tableArg 64 0x000000B450000000) = .ok (.svAngle 180) := by
  decide

theorem witness_IdleStepsOnlyPassTime : (withScript [.idle 0]).seq.phase = .idle ∧
    (withScript [.idle 0]).inputs = .idle 0 :: [] ∧ (withScript [.idle 7]).inputs = .idle 7 :: [] ∧
    State.reset.seq.phase = .idle ∧ State.reset.inputs = [] := by decide

/-- In `IDLE` and in the middle of a command. -/
theorem witness_HardResetLeavesTheResetValues : (withScript [.hardReset]).inputs = .hardReset :: [] ∧
    (withScript [.hardReset]).seq.phase = .idle ∧
    ({ withScript [.hardReset] with seq := { Sequencer.atRest with phase := .wLow, owOp := .wbit } } : State).inputs =
      .hardReset :: [] := by decide

/-- An OW_WRITE_BIT cut after three of its four events; `witness_ResetCutsAnIllegalWord` has the other clause. -/
theorem witness_ResetCutsACommandShort : ∃ (s u : State) (es : List Event), s.seq.phase = .idle ∧
    s.inputs = .abort 0x31000001 0 3 :: [] ∧ decode s.cfg 0x31000001 0 = .ok (.owWriteBit 1) ∧
    exec (.owWriteBit 1) { s with
      inputs := []
      port := { s.port with cmd := 0x31000001, arg := 0, rspValid := false } } = .next u ∧
    u.log = s.log ++ es ∧ es.length = 4 :=
  ⟨withScript [.abort 0x31000001 0 3], _, [.drive 0 .l, .wait 1000, .drive 0 .z, .wait 59000], rfl, rfl, by decide,
    rfl, by decide, rfl⟩

theorem witness_ResetCutsAnIllegalWord : (withScript [.abort 0 0 3]).seq.phase = .idle ∧
    (withScript [.abort 0 0 3]).inputs = .abort 0 0 3 :: [] ∧
    decode (withScript [.abort 0 0 3]).cfg 0 0 = .error .unknownOpcode := by decide

/-- A phased entry that decodes and one that does not; a busy core, with nothing and with a command on the script. -/
theorem witness_BusyCoreHoldsBackTheScript :
    ((withScript [.phased 0x30000000 0]).seq.phase = .idle ∧
      (withScript [.phased 0x30000000 0]).inputs = .phased 0x30000000 0 :: [] ∧
      decode P0 0x30000000 0 = .ok .owReset ∧ (withScript [.phased 0 0]).inputs = .phased 0 0 :: [] ∧
      decode P0 0 0 = .error .unknownOpcode) ∧
    ({ State.reset with seq := { Sequencer.atRest with phase := .wLow, owOp := .wbit } } : State).seq.phase ≠ .idle ∧
    (∀ rest, State.reset.inputs ≠ .hardReset :: rest) ∧
    (∀ rest, (withScript [.command 0x10000000 0]).inputs ≠ .hardReset :: rest) := by
  refine ⟨by decide, by decide, fun rest => ?_, fun rest => ?_⟩ <;> simp [State.reset, State.powerOn, withScript]

/-- The defaults of R6, the narrowest counter and the widest block. -/
theorem witness_valid : State.reset.cfg.valid ∧
    Pleast.valid ∧ Pmost.valid := ⟨by decide, by decide, by decide⟩

/-! Statements whose only hypothesis is the configuration. -/

theorem witness_NowCommandsReadTheTickCounters : (atTime 1234567890).cfg.valid := by decide
theorem witness_ElapsedCommandsSubtractModuloTheWidth : (atTime 5000000000).cfg.valid := by decide
theorem witness_TimerStartsAndReads : (atTime 5000000000).cfg.valid := by decide
/-- Also a command that answers with each error. -/
theorem witness_DurationOfEveryCommand : (withPixels [⟨1, 2, 3⟩]).cfg.valid ∧ State.reset.cfg.valid ∧
    seen answer (exec .pxWrite State.reset) = some (1, 0) ∧ seen answer (exec (.dlRead 4) State.reset) = some (2, 0) :=
  ⟨by decide, by decide, by decide, by decide⟩
theorem witness_ServoClampsTheSpecExamples : State.reset.cfg.valid := by decide
theorem witness_DbInitConstructs : State.reset.cfg.valid := by decide

/-- One instant, and a difference of exactly `2^W`. -/
theorem witness_TickDifferenceSurvivesTheWrap : P0.valid ∧ (1000 = 1000 ∨ 1000 = 1000000) ∧ 5 ≤ 5 ∧
    5 ≤ 4294967296005 := by decide

theorem witness_TicksInADuration : P0.valid ∧ (1000000 = 1000 ∨ 1000000 = 1000000) := by decide

/-- A counter of seven bits is the narrowest that can hold 100. -/
theorem witness_TimerCountsAHundredMilliseconds : ∃ s t u : State, s.cfg.valid ∧ s.cfg.tickBits = 7 ∧
    100 < 2 ^ s.cfg.tickBits ∧ exec .tmStart s = .next t ∧ u = { t with time := t.time + 100000000 } ∧
    ∃ v w : State, exec .tmElapsed s = .next v ∧ w = { v with time := v.time + 100000000 } :=
  ⟨State.powerOn { P0 with tickBits := 7 } 0, _, _, by decide, rfl, by decide, rfl, rfl, _, _, rfl, rfl⟩

/-- The first and the last line. -/
theorem witness_DlSetDirDrivesOrReleases : State.reset.lines.length = State.reset.cfg.numLines ∧
    (0#8).toNat < State.reset.cfg.numLines ∧ (3#8).toNat < State.reset.cfg.numLines := by decide

theorem witness_DlSetPullSetsThePull : State.reset.lines.length = State.reset.cfg.numLines ∧
    (3#8).toNat < State.reset.cfg.numLines := by decide

/-- An output and an input. -/
theorem witness_DlWriteDrivesAnOutput : (withLine 3 outLow).lines.length = (withLine 3 outLow).cfg.numLines ∧
    (3#8).toNat < (withLine 3 outLow).cfg.numLines ∧ ((withLine 3 outLow).line (3#8).toNat).dir = .output ∧
    ((withLine 3 outLow).line (0#8).toNat).dir = .input := by decide

theorem witness_DlReadSamplesAnInput : (3#8).toNat < (withLine 3 outLow).cfg.numLines ∧
    ((withLine 3 outLow).line (3#8).toNat).dir = .output ∧ (2#8).toNat < (withLine 3 outLow).cfg.numLines ∧
    ((withLine 3 outLow).line (2#8).toNat).dir = .input := by decide

/-- For the statements of the slots and of OW_RESET: the configuration and one set of registers per line. -/
theorem witness_OwResetDetectsPresence : (withAnswers [low]).cfg.valid ∧
    (withAnswers [low]).lines.length = (withAnswers [low]).cfg.numLines := by decide

theorem witness_OwWriteBitSendsOneSlot : State.reset.cfg.valid ∧
    State.reset.lines.length = State.reset.cfg.numLines := by decide

/-- Also with line 0 an output at high. -/
theorem witness_OwReadBitReadsOneSlot : (withLine 0 { dir := .output, pull := .none, out := 1 }).cfg.valid ∧
    (withLine 0 { dir := .output, pull := .none, out := 1 }).lines.length =
      (withLine 0 { dir := .output, pull := .none, out := 1 }).cfg.numLines := by decide

theorem witness_OwWriteByteSendsEightSlots : State.reset.cfg.valid ∧
    State.reset.lines.length = State.reset.cfg.numLines := by decide

theorem witness_OwReadByteReadsEightSlots : (withAnswers [high, low]).cfg.valid ∧
    (withAnswers [high, low]).lines.length = (withAnswers [high, low]).cfg.numLines := by decide

theorem witness_OwWrittenByteCanBeReadBack : State.reset.cfg.valid ∧
    State.reset.lines.length = State.reset.cfg.numLines := by decide

/-- Each of the five single-wire commands, the sequencer at rest; also for OwNeverRaisesInvalidState and
OwTouchesLineZeroAloneNeverHigh. -/
theorem witness_OwLeavesLineZeroReleased : Spec.isOneWire .owReset = true ∧ Spec.isOneWire (.owWriteBit 1) = true ∧
    Spec.isOneWire .owReadBit = true ∧ Spec.isOneWire (.owWriteByte 0xCC) = true ∧
    Spec.isOneWire .owReadByte = true ∧ State.reset.cfg.valid ∧
    State.reset.lines.length = State.reset.cfg.numLines ∧ State.reset.seq = Sequencer.atRest := by decide

theorem witness_OwNeverRaisesInvalidState : Spec.isOneWire (.owWriteByte 0) = true := by decide

theorem witness_OwTouchesLineZeroAloneNeverHigh : Spec.isOneWire .owReset = true ∧ State.reset.cfg.valid ∧
    State.reset.lines.length = State.reset.cfg.numLines := by decide

/-- Each answer of the environment. -/
theorem witness_OwPresenceIsTheLowSample : State.reset.cfg.valid ∧
    State.reset.lines.length = State.reset.cfg.numLines ∧ (withAnswers [low]).answers = low :: [] ∧
    (withAnswers [high]).answers = high :: [] ∧ (withAnswers [float 1]).answers = float 1 :: [] ∧
    low.ext = .l ∧ high.ext = .h ∧ (float 1).ext = .z := by decide

/-- The largest legal size and the next. -/
theorem witness_PxInitBuildsABlackBuffer : (256#16).toNat ≤ State.reset.cfg.pxMax ∧
    State.reset.cfg.pxMax < (257#16).toNat := by decide

/-- The last entry and the first index beyond. -/
theorem witness_PxSetStoresOneTriplet :
    (withPixels [⟨0, 0, 0⟩, ⟨1, 1, 1⟩]).px.entries.length = (withPixels [⟨0, 0, 0⟩, ⟨1, 1, 1⟩]).px.n.toNat ∧
    (1#32).toNat < (withPixels [⟨0, 0, 0⟩, ⟨1, 1, 1⟩]).px.n.toNat ∧
    (withPixels [⟨0, 0, 0⟩, ⟨1, 1, 1⟩]).px.n.toNat ≤ (2#32).toNat := by decide

/-- A buffer of one entry and the empty buffer. -/
theorem witness_PxWriteSendsTheFrame : (withPixels [⟨1, 2, 3⟩]).cfg.valid ∧
    (withPixels [⟨1, 2, 3⟩]).lines.length = (withPixels [⟨1, 2, 3⟩]).cfg.numLines ∧
    ((withPixels [⟨1, 2, 3⟩]).line 1).dir = .output ∧ ((withPixels []).line 1).dir = .output ∧
    (withPixels []).px.n = 0 := by decide

theorem witness_PxWriteNeedsAnOutput : (State.reset.line 1).dir = .input := by decide

theorem witness_PxFrameHasTwentyFourPulses : (withPixels [⟨1, 2, 3⟩]).cfg.valid ∧
    (withPixels [⟨1, 2, 3⟩]).lines.length = (withPixels [⟨1, 2, 3⟩]).cfg.numLines ∧
    ((withPixels [⟨1, 2, 3⟩]).line 1).dir = .output ∧ ((withPixels [⟨1, 2, 3⟩]).line 1).out = 0 ∧
    (withPixels [⟨1, 2, 3⟩]).px.n = 1 := by decide

/-- One operand for each clause, at the ends of its range; the top of the pulse range of SV_PULSE is `PERIOD_US`. -/
theorem witness_ServoCommandsScaleAndClamp : State.reset.cfg.valid ∧ (-1#32).toInt < 0 ∧
    (0 ≤ (0#32).toInt ∧ (0#32).toInt ≤ 180) ∧ (0 ≤ (180#32).toInt ∧ (180#32).toInt ≤ 180) ∧
    180 < (181#32).toInt ∧ (0 ≤ (20000#32).toInt ∧ (20000#32).toInt ≤ State.reset.cfg.periodUs) ∧
    (State.reset.cfg.periodUs : Int) < (20001#32).toInt := by decide

theorem witness_ServoIsMonotoneAndBounded : State.reset.cfg.valid ∧ (0#32).toInt ≤ (180#32).toInt ∧
    (0#32).toInt = 0 ∧ (180#32).toInt = 180 ∧ (20000#32).toInt = State.reset.cfg.periodUs ∧
    (0x80000000#32).toInt ≤ (0x7FFFFFFF#32).toInt := by decide

theorem witness_DbReadFiltersOneObservation : (withDebouncer 0 1000 50).cfg.valid ∧
    ((1 : Bit) ≠ (withDebouncer 0 1000 50).db.acc ∧
      (withDebouncer 0 1000 50).db.thr.toNat < Spec.tickDiff P0 1051 (withDebouncer 0 1000 50).db.last.toNat) ∧
    Spec.tickDiff P0 1050 (withDebouncer 0 1000 50).db.last.toNat ≤ (withDebouncer 0 1000 50).db.thr.toNat := by decide

/-- A flip at exactly the threshold and a flip back before it. -/
theorem witness_DebouncerHoldsOff : (withDebouncer 0 1000 50).cfg.valid ∧
    ∀ o, o ∈ ([(1, 1050), (0, 1020)] : List (Bit × Word)) →
      Spec.tickDiff (withDebouncer 0 1000 50).cfg o.2.toNat (withDebouncer 0 1000 50).db.last.toNat ≤
        (withDebouncer 0 1000 50).db.thr.toNat := by
  refine ⟨by decide, fun o ho => ?_⟩
  rcases List.mem_cons.1 ho with rfl | ho
  · decide
  · cases List.mem_singleton.1 ho; decide

theorem witness_DebouncerAcceptsASustainedChangeOnce : (withDebouncer 0 1000 50).cfg.valid ∧
    (1 : Bit) ≠ (withDebouncer 0 1000 50).db.acc ∧
    (withDebouncer 0 1000 50).db.thr.toNat <
      Spec.tickDiff (withDebouncer 0 1000 50).cfg (1051#32).toNat (withDebouncer 0 1000 50).db.last.toNat := by decide

/-- The largest legal size and the next. -/
theorem witness_MaInitAndResetEmptyTheWindow : (64#16).toNat ≤ State.reset.cfg.maMax ∧
    State.reset.cfg.maMax < (65#16).toNat := by decide

/-- Below the size, at the size, and size 0. -/
theorem witness_MaAddAppendsAndEvicts : (withWindow 2 [7]).ma.buf.length < (withWindow 2 [7]).ma.size.toNat ∧
    (withWindow 2 [7, 8]).ma.buf.length = (withWindow 2 [7, 8]).ma.size.toNat ∧
    (withWindow 0 []).ma.buf.length = (withWindow 0 []).ma.size.toNat := by decide

/-- An empty window, and sums of either sign. -/
theorem witness_MaAvgIsTheMeanTowardZero : State.reset.ma.buf = [] ∧ (withWindow 2 [5]).ma.buf ≠ [] ∧
    0 ≤ ((withWindow 2 [5]).ma.buf.map BitVec.toInt).sum ∧
    ((withWindow 2 [-5]).ma.buf.map BitVec.toInt).sum ≤ 0 ∧
    (∀ x, x ∈ (withWindow 2 [5]).ma.buf → 5 ≤ x.toInt ∧ x.toInt ≤ 5) := by
  refine ⟨rfl, by decide, by decide, by decide, fun x hx => ?_⟩
  cases List.mem_singleton.1 hx; decide

theorem witness_WindowHoldsTheLastSamples : (3#16).toNat ≤ State.reset.cfg.maMax ∧
    (0#16).toNat ≤ State.reset.cfg.maMax ∧ (64#16).toNat ≤ State.reset.cfg.maMax := by decide

/-- A response with each exception's code, which is where the statement says that nothing changes. -/
theorem witness_ExceptionsChangeNothing : seen answer (exec (.dlRead 4) State.reset) = some (2, 0) ∧
    seen answer (exec .pxWrite State.reset) = some (1, 0) := by decide

theorem witness_NoCommandReadsTheLog : 8 ≤ (withAnswers (List.replicate 8 high)).answers.length := by decide

theorem witness_ResetMeetsTheInvariant : P0.valid := by decide

/-- A state in `IDLE`, one in the middle of a read slot and one in the middle of a frame meet the invariant and step on. -/
theorem witness_StepKeepsTheInvariant :
    (Inv (withScript [.command 0x71000000 5]) ∧ ∃ t, step (withScript [.command 0x71000000 5]) = .next t) ∧
    (Inv { State.reset with seq := { Sequencer.atRest with phase := .rdSmp, owOp := .rbyte, bitidx := 7 } }) ∧
    (Inv { withPixels [⟨1, 2, 3⟩] with seq := { Sequencer.atRest with phase := .pLow, pxChan := 2, pxBit := 7 } }) := by
  refine ⟨⟨⟨by decide, by decide, by decide, by unfold ticksLegal; decide, rfl, by decide⟩, _, rfl⟩,
    ⟨by decide, by decide, by decide, by unfold ticksLegal; decide, ⟨Or.inr rfl, rfl, rfl⟩, by decide⟩,
    ⟨by decide, by decide, by decide, by unfold ticksLegal; decide, ⟨by decide, by decide, rfl, rfl⟩, by decide⟩⟩

/-- The same two kinds of state, their logs faithful. -/
theorem witness_StepKeepsTheLogFaithful : Inv (withScript [.command 0x22000001 0]) ∧
    logFaithful (withScript [.command 0x22000001 0]) ∧ ∃ t, step (withScript [.command 0x22000001 0]) = .next t := by
  refine ⟨⟨by decide, by decide, by decide, by unfold ticksLegal; decide, rfl, by decide⟩, ?_, _, rfl⟩
  have h : ∀ l, padAfter l .z (resetEvents 4) = .z ∧ samplesReleased l .z (resetEvents 4) := by
    intro l
    simp [resetEvents, List.range_succ, padAfter, samplesReleased]
  intro l
  refine ⟨(h l).1.trans ?_, (h l).2⟩
  by_cases h4 : l < 4
  · interval_cases l <;> decide
  · simp [State.line, withScript, State.reset, State.powerOn, Config.Params.default, Line.pad, Line.atReset, h4]

/-- The machine at rest with a command latched. -/
def latched (i : Instr) : State := { State.reset with port := { Port.atReset with cmd := (encode i).1 } }

/-- Each of the five commands. -/
theorem witness_OneWirePhasesAgree :
    ∀ i, i ∈ [Instr.owReset, .owWriteBit 1, .owReadBit, .owWriteByte 0xCC, .owReadByte] →
      Spec.isOneWire i = true ∧ (latched i).seq = Sequencer.atRest ∧ (latched i).port.cmd = (encode i).1 := by
  intro i hi
  fin_cases hi <;> exact ⟨rfl, rfl, rfl⟩

theorem witness_PixelPhasesAgree : (withPixels [⟨1, 2, 3⟩]).seq = Sequencer.atRest ∧
    State.reset.seq = Sequencer.atRest := by decide

end Sys2Proof.Tests
end

section
/-! SUPPORT. The family 00_scope: a step in `IDLE`, the idle step, differences of ticks, DL_SET_DIR. -/

namespace Sys2Proof.Machine

/-! ### A step in `IDLE` (R9, R81, R90) -/

/-- In `IDLE` a step takes the head of the script off and does what it says, the response of the step before over. -/
theorem step_of_input {s : State} {inp : Input} {rest : List Input} (hphase : s.seq.phase = .idle)
    (hinputs : s.inputs = inp :: rest) : step s = takeInput inp { quiet s with inputs := rest } := by
  rw [step_idle hphase]
  simp only [idleStep, quiet_inputs, hinputs]

/-- In `IDLE` with nothing scripted a step is the environment's idle step. -/
theorem step_of_no_input {s : State} (hphase : s.seq.phase = .idle) (hinputs : s.inputs = []) :
    step s = .next (freeIdle (quiet s)) := by
  rw [step_idle hphase]
  simp only [idleStep, quiet_inputs, hinputs]

/-- A legal word runs its command, once the words are latched (R90). -/
theorem runCommand_of_decode_ok {s : State} {cmd arg : Word} {i : Instr} (h : decode s.cfg cmd arg = .ok i) :
    runCommand cmd arg s = exec i (acceptWords cmd arg s) := by
  simp only [runCommand, h]

/-- An illegal word raises `ILLEGAL`, once the words are latched (R282). -/
theorem runCommand_of_decode_error {s : State} {cmd arg : Word} {e : DecodeError}
    (h : decode s.cfg cmd arg = .error e) : runCommand cmd arg s = .next (raise .illegal (acceptWords cmd arg s)) := by
  simp only [runCommand, h]

/-- Settles O5: the step is `runCommand` at the quiet state, which follows the decoder. -/
theorem stepRunsTheDecodedCommand : Obligations.StepRunsTheDecodedCommand := by
  intro s cmd arg rest hphase hinputs
  have hstep : step s = runCommand cmd arg { quiet s with inputs := rest } := step_of_input hphase hinputs
  exact ⟨fun _ hdecode => hstep.trans (runCommand_of_decode_ok hdecode),
    fun _ hdecode => hstep.trans (runCommand_of_decode_error hdecode)⟩

/-- Settles O7: an idle step is `wait`, of the scripted length or of the environment's. -/
theorem idleStepsOnlyPassTime : Obligations.IdleStepsOnlyPassTime := by
  constructor
  · intro s d rest hphase hinputs
    have hstep : step s = .next (wait d { quiet s with inputs := rest }) := step_of_input hphase hinputs
    rw [hstep, wait_eq]
    rfl
  · intro s hphase hinputs
    refine ⟨Config.oracleIdle s.draws, ?_⟩
    rw [step_of_no_input hphase hinputs, freeIdle, idleFor, wait_eq]
    rfl

/-! ### Differences of ticks (R10, R24, R112, R113, R116) -/

/-- The difference of two Ticks is that of the counts they stand for: reducing both modulo `2^W` loses nothing. -/
theorem tdiff_tickOfNat {P : Config.Params} (hv : P.valid) (a b : Nat) :
    (tdiff P (tickOfNat P a) (tickOfNat P b)).toNat = Spec.tickDiff P a b := by
  rw [tdiff_toNat hv, tickOfNat_toNat hv, tickOfNat_toNat hv, tickDiff_mod_left, tickDiff_mod_right]

/-- The same as an integer, against a Tick operand: the bits of `ARG` above `W` do not count (R87 i). -/
theorem tdiff_tickOperand_cast {P : Config.Params} (hv : P.valid) (n : Nat) (since : Word) :
    ((tdiff P (tickOfNat P n) (tickOperand P since)).toNat : Int) =
      ((n : Int) - since.toNat) % (2 ^ P.tickBits : Nat) := by
  rw [tickOperand, tdiff_tickOfNat hv, tickDiff_cast]

theorem exec_elapsedMs (since : Word) (s : State) :
    exec (.elapsedMs since) s =
      .next (respondOk (tdiff s.cfg (tickOfNat s.cfg (s.time / 1000000)) (tickOperand s.cfg since)) s) := rfl

theorem exec_elapsedUs (since : Word) (s : State) :
    exec (.elapsedUs since) s =
      .next (respondOk (tdiff s.cfg (tickOfNat s.cfg (s.time / 1000)) (tickOperand s.cfg since)) s) := rfl

theorem onlyPort_respondOk (data : Word) (s : State) : OnlyPort s (respondOk data s) := rfl

theorem okResponse_respondOk (data : Word) (s : State) : OkResponse s (respondOk data s) data := rfl

/-- Settles O12: either command answers with the difference of its own counter and the operand. -/
theorem elapsedCommandsSubtractModuloTheWidth : Obligations.ElapsedCommandsSubtractModuloTheWidth := by
  intro s since hv
  exact ⟨⟨_, _, exec_elapsedMs since s, onlyPort_respondOk _ s, okResponse_respondOk _ s,
      tdiff_tickOperand_cast hv _ since⟩,
    ⟨_, _, exec_elapsedUs since s, onlyPort_respondOk _ s, okResponse_respondOk _ s,
      tdiff_tickOperand_cast hv _ since⟩⟩

/-- Settles O14: counts are monotone in time, so the difference is theirs modulo `2^W`, and a number is its own
remainder exactly when it is below the modulus. The argument is the same for every unit `u`. -/
theorem tickDifferenceSurvivesTheWrap : Obligations.TickDifferenceSurvivesTheWrap := by
  intro P u Ta Tb hv _ hle
  have hcount : Ta / u ≤ Tb / u := Nat.div_le_div_right hle
  have hdiff : (tdiff P (tickOfNat P (Tb / u)) (tickOfNat P (Ta / u))).toNat =
      (Tb / u - Ta / u) % 2 ^ P.tickBits := by
    rw [tdiff_tickOfNat hv, tickDiff_of_le P hcount]
  refine ⟨hdiff, ?_⟩
  rw [hdiff]
  exact Nat.mod_eq_iff_lt (Nat.two_pow_pos _).ne'

/-! ### DL_SET_DIR (R130) -/

/-- The pad state by cases on direction and latch (R11). -/
theorem pad_eq (ln : Line) :
    ln.pad = if ln.dir = .input then .z else if ln.out = 0 then .l else .h := by
  rcases ln with ⟨dir, pull, out⟩
  cases dir with
  | input => rfl
  | output => rfl

/-- A line number below `NUM_LINES` names a line (R134). -/
theorem hasLine_iff (s : State) (line : Byte) : s.hasLine line = true ↔ line.toNat < s.cfg.numLines := by
  simp [State.hasLine, lineLegal]

/-- DL_SET_DIR on a line that exists. -/
theorem exec_dlSetDir_of_lt {s : State} {line : Byte} (dir : Dir) (h : line.toNat < s.cfg.numLines) :
    exec (.dlSetDir line dir) s = .next (respondOk 0 (setDir line.toNat dir s)) :=
  if_pos ((hasLine_iff s line).2 h)

/-- Settles O17: `setDir` writes one field of one line and logs the pad of the line it leaves. -/
theorem dlSetDirDrivesOrReleases : Obligations.DlSetDirDrivesOrReleases := by
  intro s line dir hlen hline
  have hexists : line.toNat < s.lines.length := hlen ▸ hline
  refine ⟨_, exec_dlSetDir_of_lt dir hline, ?response, ?written, ?others, ?logged, ?frame⟩
  case response => exact okResponse_respondOk 0 _
  case written => simp [setDir_line, hexists]
  case others =>
    intro k hk
    simp [setDir_line, hk]
  case logged =>
    rw [respondOk_log, setDir_log _ _ _ hexists, pad_eq]
  case frame => rfl

end Sys2Proof.Machine
end

section
/-! SUPPORT. The family 10_state: what a step can do, said once as a run of the primitives of R11; from it the invariant,
the faithful log and the account of time. -/

namespace Sys2Proof.Machine

/-! ### The reset's own events (R50, R310) -/

theorem resetEvents_succ (n : Nat) :
    resetEvents (n + 1) = resetEvents n ++ [.drive n .z, .pull n .none] := by
  simp [resetEvents, List.range_succ]

@[simp] theorem length_resetEvents (n : Nat) : (resetEvents n).length = 2 * n := by
  induction n with
  | zero => rfl
  | succ n ih => simp [resetEvents_succ, ih, Nat.mul_succ]

@[simp] theorem logTime_resetEvents (n : Nat) : logTime (resetEvents n) = 0 := by
  induction n with
  | zero => rfl
  | succ n ih => simp [resetEvents_succ, ih, logTime]

@[simp] theorem sampleCount_resetEvents (n : Nat) : sampleCount (resetEvents n) = 0 := by
  induction n with
  | zero => rfl
  | succ n ih => simp [resetEvents_succ, ih, sampleCount]

@[simp] theorem samplesReleased_resetEvents (l n : Nat) (p : Pad) : samplesReleased l p (resetEvents n) := by
  induction n with
  | zero => trivial
  | succ n ih => simp [resetEvents_succ, ih, samplesReleased]

/-- The reset releases the lines there are, and speaks of no other. -/
theorem padAfter_resetEvents (l n : Nat) (p : Pad) :
    padAfter l p (resetEvents n) = if l < n then .z else p := by
  induction n with
  | zero => rfl
  | succ n ih =>
    simp only [resetEvents_succ, padAfter_append, padAfter, ih]
    rcases Nat.lt_trichotomy l n with h | rfl | h
    · simp [h, h.ne', Nat.lt_succ_of_lt h]
    · simp
    · simp [h.ne, h.not_gt, show ¬ l < n + 1 by omega]

theorem waitsPositive_resetEvents (n : Nat) : waitsPositive (resetEvents n) := by
  intro d hd
  simp [resetEvents] at hd

theorem drive_mem_resetEvents {l n : Nat} (h : l < n) : .drive l .z ∈ resetEvents n := by
  simp [resetEvents, h]

theorem pull_mem_resetEvents {l n : Nat} (h : l < n) : .pull l .none ∈ resetEvents n := by
  simp [resetEvents, h]

/-- Every line of a fresh set of registers reads as a line after reset, and so does a number that names none. -/
theorem line_of_lines_replicate {s : State} {n : Nat} (h : s.lines = List.replicate n Line.atReset) (l : Nat) :
    s.line l = Line.atReset := by
  simp [State.line, h]

/-- A number that names no line reads as a line after reset. -/
theorem line_of_length_le {s : State} {l : Nat} (h : s.lines.length ≤ l) : s.line l = Line.atReset := by
  simp [State.line, List.getD, h]

/-- Settles O8: in `IDLE` the reset is the next entry of the script, in any other phase it acts at once. -/
theorem hardResetLeavesTheResetValues : Obligations.HardResetLeavesTheResetValues := by
  intro s rest hinputs
  have hstep : step s = .next (hardReset { quiet s with inputs := rest }) := by
    by_cases hphase : s.seq.phase = .idle
    · exact step_of_input hphase hinputs
    · rw [step_busy hphase]
      simp only [busyStep, quiet_inputs, hinputs]
  exact ⟨_, resetEvents s.cfg.numLines, hstep, rfl, rfl, rfl, rfl, rfl, rfl, by simp,
    line_of_lines_replicate (hardReset_lines _), rfl, rfl, rfl, rfl, rfl, rfl, rfl, rfl, rfl,
    length_resetEvents _, fun l hl => ⟨drive_mem_resetEvents hl, pull_mem_resetEvents hl⟩⟩

/-- Settles O56: the log is the reset's own events, which speak of releases alone. -/
theorem resetLogIsFaithful : Obligations.ResetLogIsFaithful := by
  intro P T0
  refine ⟨fun l => ⟨?_, samplesReleased_resetEvents _ _ _⟩, sampleCount_resetEvents _, logTime_resetEvents _⟩
  rw [line_of_lines_replicate (s := State.powerOn P T0) rfl]
  show padAfter l .z (resetEvents P.numLines) = .z
  simp [padAfter_resetEvents]

/-- The reset values meet the invariant, whatever the log, the time and the script: it needs the configuration alone. -/
theorem inv_hardReset {s : State} (hv : s.cfg.valid) : Inv (hardReset s) where
  params := hv
  lineCount := by simp
  memory := hardReset_wf s
  ticks := ⟨Nat.two_pow_pos _, Nat.two_pow_pos _⟩
  sequencer := rfl
  status := Nat.zero_le _

/-- Settles O54: the reset values are in range for every legal configuration. -/
theorem resetMeetsTheInvariant : Obligations.ResetMeetsTheInvariant := by
  intro P T0 hv
  exact {
    params := hv
    lineCount := List.length_replicate
    memory := powerOn_wf P T0
    ticks := ⟨Nat.two_pow_pos _, Nat.two_pow_pos _⟩
    sequencer := rfl
    status := Nat.zero_le _ }

/-! ### Runs of primitives (R11)

Everything a command, a phase or an idle step does is a run of the acts below. The two parameters say how much is asked of
a run: `released`, that only lines the core does not drive are sampled (R27 a); `sequenced`, that the sequencer may move.
-/

/-- One primitive. -/
inductive Act (released sequenced : Prop) : State → State → Prop
  /-- direction or latch of a line, then the pad shows it -/
  | pad (s : State) (l : Nat) (ln : Line) : Act released sequenced s ((s.setLine l ln).announce l)
  | pull (s : State) (l : Nat) (p : Pull) : Act released sequenced s (setPull l p s)
  | wait (s : State) (d : Nat) : Act released sequenced s (wait d s)
  | sample (s : State) (l : Nat) (h : released → (s.line l).dir = .input) : Act released sequenced s (sample l s).2
  | respond (s : State) (st : Status) (data : Word) : Act released sequenced s (respond st data s)
  /-- the registers of the timer, the debouncer and the two memories -/
  | store {s t : State} (frame : t = { s with tmStart := t.tmStart, px := t.px, db := t.db, ma := t.ma })
      (memory : Memory.wf s → Memory.wf t) (ticks : s.cfg.valid → ticksLegal s → ticksLegal t) :
      Act released sequenced s t
  /-- what the host and the environment do: the words latched, the response taken, the script moved on -/
  | host {s t : State} (frame : t = { s with port := t.port, inputs := t.inputs, draws := t.draws })
      (status : t.port.rspStatus = s.port.rspStatus) : Act released sequenced s t
  | jump (h : sequenced) (s : State) (q : Sequencer) : Act released sequenced s (s.setSeq q)

/-- A run of primitives. -/
abbrev Runs (released sequenced : Prop) : State → State → Prop := Relation.ReflTransGen (Act released sequenced)

theorem Runs.start {released sequenced : Prop} (s : State) : Runs released sequenced s s := .refl

theorem Runs.trans {released sequenced : Prop} {s t u : State} (h : Runs released sequenced s t)
    (h' : Runs released sequenced t u) : Runs released sequenced s u := Relation.ReflTransGen.trans h h'

section Operations
variable {released sequenced : Prop} {s t : State}

/-! What the named operations are as runs; each is stated at the end of a run, so that runs are chained as the meanings
chain their operations. -/

theorem Runs.setLineAnnounce (h : Runs released sequenced s t) (l : Nat) (ln : Line) :
    Runs released sequenced s ((t.setLine l ln).announce l) := h.tail (.pad t l ln)

theorem Runs.drive (h : Runs released sequenced s t) (l : Nat) (d : Dir) (o : Bit) :
    Runs released sequenced s (drive l d o t) := h.setLineAnnounce l _

/-- A release logs `Z` whether or not the line exists, and that is the pad it leaves. -/
theorem release_eq_announce (l : Nat) (s : State) :
    release l s = (s.setLine l { (s.line l) with dir := .input }).announce l := by
  have hpad : ((s.setLine l { (s.line l) with dir := .input }).line l).pad = .z := by
    rw [setLine_line, pad_eq]
    by_cases hl : l < s.lines.length
    · simp [hl]
    · simp [hl, line_of_length_le (Nat.le_of_not_lt hl), Line.atReset]
  rw [State.announce, hpad, release]

theorem Runs.release (h : Runs released sequenced s t) (l : Nat) : Runs released sequenced s (release l t) := by
  rw [release_eq_announce]
  exact h.setLineAnnounce l _

theorem Runs.setPull (h : Runs released sequenced s t) (l : Nat) (p : Pull) :
    Runs released sequenced s (setPull l p t) := h.tail (.pull t l p)

theorem Runs.wait (h : Runs released sequenced s t) (d : Nat) : Runs released sequenced s (wait d t) :=
  h.tail (.wait t d)

theorem Runs.sample (h : Runs released sequenced s t) {l : Nat} (hl : released → (t.line l).dir = .input) :
    Runs released sequenced s (sample l t).2 := h.tail (.sample t l hl)

theorem Runs.respondOk (h : Runs released sequenced s t) (data : Word) :
    Runs released sequenced s (respondOk data t) := h.tail (.respond t .ok data)

theorem Runs.raise (h : Runs released sequenced s t) (e : Exception) : Runs released sequenced s (raise e t) :=
  h.tail (.respond t e.status 0)

theorem Runs.store {u : State} (h : Runs released sequenced s t)
    (frame : u = { t with tmStart := u.tmStart, px := u.px, db := u.db, ma := u.ma })
    (memory : Memory.wf t → Memory.wf u) (ticks : t.cfg.valid → ticksLegal t → ticksLegal u) :
    Runs released sequenced s u := h.tail (.store frame memory ticks)

theorem Runs.host {u : State} (h : Runs released sequenced s t)
    (frame : u = { t with port := u.port, inputs := u.inputs, draws := u.draws })
    (status : u.port.rspStatus = t.port.rspStatus) : Runs released sequenced s u := h.tail (.host frame status)

theorem Runs.acceptWords (h : Runs released sequenced s t) (cmd arg : Word) :
    Runs released sequenced s (acceptWords cmd arg t) := h.host rfl rfl

theorem Runs.setSeq (h : Runs released True s t) (q : Sequencer) : Runs released True s (t.setSeq q) :=
  h.tail (.jump trivial t q)

theorem Runs.spend (h : Runs released True s t) (len : Nat) (next : Phase) :
    Runs released True s (spend len next t) := ((h.setSeq _).wait _).setSeq _ |>.setSeq _

theorem Runs.finish (h : Runs released True s t) (data : Word) : Runs released True s (finish data t) :=
  (h.respondOk data).setSeq _

theorem Runs.owDriveLow (h : Runs released sequenced s t) : Runs released sequenced s (owDriveLow t) := h.drive _ _ _

theorem Runs.owRelease (h : Runs released sequenced s t) : Runs released sequenced s (owRelease t) := h.release _

end Operations

/-- A released line is an input; where the line does not exist it never was an output. -/
theorem release_dir (l : Nat) (s : State) : ((release l s).line l).dir = .input := by
  rw [release_line]
  by_cases hl : l < s.lines.length
  · simp [hl]
  · simp [hl, line_of_length_le (Nat.le_of_not_lt hl), Line.atReset]

theorem setPull_dir (l k : Nat) (p : Pull) (s : State) : ((setPull l p s).line k).dir = (s.line k).dir := by
  rw [setPull_line]
  split
  case isTrue h => rw [h.1]
  case isFalse => rfl

/-! ### The commands as runs -/

/-- The outcome is a next state that a run reaches. -/
def Answers (released sequenced : Prop) (s : State) (o : Host.Outcome State Fault Refusal) : Prop :=
  ∃ t, o = .next t ∧ Runs released sequenced s t

section Commands
variable {released sequenced : Prop} {s t : State}

theorem Runs.answers (h : Runs released sequenced s t) : Answers released sequenced s (.next t) := ⟨t, rfl, h⟩

theorem Answers.after {o : Host.Outcome State Fault Refusal} (ho : Answers released sequenced t o)
    (h : Runs released sequenced s t) : Answers released sequenced s o := by
  obtain ⟨u, rfl, hu⟩ := ho
  exact ⟨u, rfl, h.trans hu⟩

/-- A command that computes from registers and answers. -/
theorem answers_respondOk (data : Word) (s : State) : Answers released sequenced s (.next (respondOk data s)) :=
  ((Runs.start s).respondOk data).answers

theorem answers_raise (e : Exception) (s : State) : Answers released sequenced s (.next (raise e s)) :=
  ((Runs.start s).raise e).answers

/-- A command that writes registers of a unit and answers. -/
theorem answers_store (data : Word)
    (frame : t = { s with tmStart := t.tmStart, px := t.px, db := t.db, ma := t.ma })
    (memory : Memory.wf s → Memory.wf t) (ticks : s.cfg.valid → ticksLegal s → ticksLegal t) :
    Answers released sequenced s (.next (respondOk data t)) :=
  (((Runs.start s).store frame memory ticks).respondOk data).answers

theorem Runs.writeSlot (h : Runs released sequenced s t) (bit : Bit) : Runs released sequenced s (writeSlot bit t) :=
  ((h.owDriveLow.wait _).owRelease).wait _

theorem Runs.writeSlots (bits : List Bit) (h : Runs released sequenced s t) :
    Runs released sequenced s (writeSlots bits t) := by
  induction bits generalizing t with
  | nil => exact h
  | cons b bits ih => exact ih (h.writeSlot b)

/-- The sample of a read slot finds line 0 released. -/
theorem readLead_dir (s : State) : ((readLead s).line Config.lineOw).dir = .input := by
  rw [readLead, wait_line]
  exact release_dir _ _

theorem Runs.readSlot (h : Runs released sequenced s t) : Runs released sequenced s (readSlot t).2 :=
  ((((h.owDriveLow.wait _).owRelease).wait _).sample fun _ => readLead_dir t).wait _

theorem Runs.readSlots (k i : Nat) (r : Byte) (h : Runs released sequenced s t) :
    Runs released sequenced s (readSlots k i r t).2 := by
  induction k generalizing i r t with
  | zero => exact h
  | succ k ih => exact ih _ _ h.readSlot

/-- So does the presence sample of OW_RESET. -/
theorem resetLead_dir (s : State) : ((resetLead s).line Config.lineOw).dir = .input := by
  rw [resetLead, wait_line, setPull_dir]
  exact release_dir _ _

theorem Runs.resetLead (h : Runs released sequenced s t) : Runs released sequenced s (resetLead t) :=
  ((((h.owDriveLow).wait _).owRelease).setPull _ _).wait _

theorem Runs.emitBit (h : Runs released sequenced s t) (v : Bit) : Runs released sequenced s (emitBit v t) :=
  (((h.drive _ _ _).wait _).drive _ _ _).wait _

theorem Runs.emitBits (bits : List Bit) (h : Runs released sequenced s t) :
    Runs released sequenced s (emitBits bits t) := by
  induction bits generalizing t with
  | nil => exact h
  | cons v bits ih => exact ih (h.emitBit v)

theorem Runs.emitTriplets (k p : Nat) (h : Runs released sequenced s t) :
    Runs released sequenced s (emitTriplets k p t) := by
  induction k generalizing p t with
  | zero => exact h
  | succ k ih => exact ih _ (h.emitBits _)

theorem Runs.latchGap (h : Runs released sequenced s t) : Runs released sequenced s (latchGap t) :=
  (h.drive _ _ _).wait _

end Commands

theorem exec_owWriteByte (byte : Byte) (s : State) :
    exec (.owWriteByte byte) s = .next (respondOk 0 (writeSlots (bitsLsbFirst byte) s)) := rfl

/-- OW_READ_BYTE by the two parts of its slots' result. -/
theorem exec_owReadByte (s : State) :
    exec .owReadByte s = .next (respondOk (zextByte (readSlots 8 0 0 s).1) (readSlots 8 0 0 s).2) := by
  show execOwReadByte s = _
  unfold execOwReadByte
  generalize readSlots 8 0 0 s = result
  rfl

/-- A Tick is below `2^W` (R24). -/
theorem tickOfNat_lt {P : Config.Params} (hv : P.valid) (n : Nat) : (tickOfNat P n).toNat < 2 ^ P.tickBits := by
  rw [tickOfNat_toNat hv]
  exact Nat.mod_lt _ (Nat.two_pow_pos _)

/-- An observation keeps the Tick it had or takes the one it was given (R246). -/
theorem observe_last (P : Config.Params) (level : Bit) (now : Word) (d : Debouncer) :
    (observe P level now d).last = now ∨ (observe P level now d).last = d.last := by
  unfold observe
  split
  · exact .inl rfl
  · exact .inr rfl

section Dispatch
variable {released sequenced : Prop}

theorem answers_dlSetDir (line : Byte) (dir : Dir) (s : State) :
    Answers released sequenced s (exec (.dlSetDir line dir) s) := by
  show Answers _ _ s (execDlSetDir line dir s)
  unfold execDlSetDir
  split
  · exact (((Runs.start s).setLineAnnounce _ _).respondOk 0).answers
  · exact answers_raise _ s

theorem answers_dlSetPull (line : Byte) (pull : Pull) (s : State) :
    Answers released sequenced s (exec (.dlSetPull line pull) s) := by
  show Answers _ _ s (execDlSetPull line pull s)
  unfold execDlSetPull
  split
  · exact (((Runs.start s).setPull _ _).respondOk 0).answers
  · exact answers_raise _ s

theorem answers_dlWrite (line : Byte) (level : Bit) (s : State) :
    Answers released sequenced s (exec (.dlWrite line level) s) := by
  show Answers _ _ s (execDlWrite line level s)
  unfold execDlWrite
  split
  · split
    · exact answers_raise _ s
    · exact (((Runs.start s).setLineAnnounce _ _).respondOk 0).answers
  · exact answers_raise _ s

/-- DL_READ samples an input only: an output is `INVALID_STATE` (R133). -/
theorem answers_dlRead (line : Byte) (s : State) : Answers released sequenced s (exec (.dlRead line) s) := by
  show Answers _ _ s (execDlRead line s)
  unfold execDlRead
  split
  · split
    · exact answers_raise _ s
    next hdir => exact (((Runs.start s).sample fun _ => hdir).respondOk _).answers
  · exact answers_raise _ s

theorem answers_pxInit (n : BitVec 16) (s : State) : Answers released sequenced s (exec (.pxInit n) s) := by
  show Answers _ _ s (execPxInit n s)
  unfold execPxInit
  split
  next hn => exact answers_store 0 rfl (fun h => pxInit_wf h hn) fun _ h => h
  · exact answers_raise _ s

theorem answers_pxSet (index : Word) (r g b : Byte) (s : State) :
    Answers released sequenced s (exec (.pxSet index r g b) s) := by
  show Answers _ _ s (execPxSet index r g b s)
  unfold execPxSet
  split
  · exact answers_store 0 rfl (pxSet_wf _ _) fun _ h => h
  · exact answers_respondOk 0 s

theorem answers_pxWrite (s : State) : Answers released sequenced s (exec .pxWrite s) := by
  show Answers _ _ s (execPxWrite s)
  unfold execPxWrite
  split
  · exact answers_raise _ s
  · exact (((Runs.start s).emitTriplets _ _).latchGap.respondOk 0).answers

theorem answers_maInit (n : BitVec 16) (s : State) : Answers released sequenced s (exec (.maInit n) s) := by
  show Answers _ _ s (execMaInit n s)
  unfold execMaInit
  split
  next hn => exact answers_store 0 rfl (fun h => maInit_wf h hn) fun _ h => h
  · exact answers_raise _ s

theorem answers_dbRead (level : Bit) (now : Word) (s : State) :
    Answers released sequenced s (exec (.dbRead level now) s) := by
  refine answers_store _ rfl (fun h => h) fun hv hticks => ⟨hticks.1, ?_⟩
  show (observe s.cfg level (tickOperand s.cfg now) s.db).last.toNat < _
  rcases observe_last s.cfg level (tickOperand s.cfg now) s.db with h | h
  · rw [h]
    exact tickOfNat_lt hv _
  · rw [h]
    exact hticks.2

/-- Every command answers, and what it does is a run that samples released lines only and leaves the sequencer alone. -/
theorem answers_exec (i : Instr) (s : State) : Answers released sequenced s (exec i s) := by
  cases i with
  | nowMs | nowUs | elapsedMs | elapsedUs | tmElapsed => exact answers_respondOk _ s
  | svAngle | svPulse | maAvg => exact answers_respondOk _ s
  | tmStart => exact answers_store 0 rfl (fun h => h) fun hv h => ⟨tickOfNat_lt hv _, h.2⟩
  | dlSetDir line dir => exact answers_dlSetDir line dir s
  | dlSetPull line pull => exact answers_dlSetPull line pull s
  | dlWrite line level => exact answers_dlWrite line level s
  | dlRead line => exact answers_dlRead line s
  | owReset =>
    exact ((((Runs.start s).resetLead.sample fun _ => resetLead_dir s).wait _).respondOk _).answers
  | owWriteBit bit => exact (((Runs.start s).writeSlot bit).respondOk 0).answers
  | owReadBit => exact ((Runs.start s).readSlot.respondOk _).answers
  | owWriteByte byte => exact ⟨_, exec_owWriteByte byte s, ((Runs.start s).writeSlots _).respondOk 0⟩
  | owReadByte => exact ⟨_, exec_owReadByte s, ((Runs.start s).readSlots 8 0 0).respondOk _⟩
  | pxInit n => exact answers_pxInit n s
  | pxSet index r g b => exact answers_pxSet index r g b s
  | pxFill r g b => exact answers_store 0 rfl (pxFill_wf _) fun _ h => h
  | pxWrite => exact answers_pxWrite s
  | dbInit level thr now => exact answers_store 0 rfl (fun h => h) fun hv h => ⟨h.1, tickOfNat_lt hv _⟩
  | dbRead level now => exact answers_dbRead level now s
  | maInit n => exact answers_maInit n s
  | maAdd x => exact answers_store 0 rfl (maAdd_wf x) fun _ h => h
  | maReset => exact answers_store 0 rfl maReset_wf fun _ h => h

/-- So is a word presented at the port, legal or not (R90). -/
theorem answers_runCommand (cmd arg : Word) (s : State) : Answers released sequenced s (runCommand cmd arg s) := by
  have haccept : Runs released sequenced s (acceptWords cmd arg s) := (Runs.start s).acceptWords cmd arg
  unfold runCommand
  split
  · exact (answers_exec _ _).after haccept
  · exact (answers_raise _ _).after haccept

end Dispatch

/-! ### The sequencer as runs (R160, R212) -/

/-- A started command enters a phase its table allows, or runs as a whole: an untimed command, and PX_WRITE where it
raises `INVALID_STATE`. -/
theorem startCommand_cases (i : Instr) (s : State) :
    (∃ q, startCommand i s = .next (s.setSeq q) ∧ seqLegal (s.setSeq q)) ∨ startCommand i s = exec i s := by
  cases i with
  | owReset => exact .inl ⟨_, rfl, rfl, rfl⟩
  | owWriteBit | owReadBit => exact .inl ⟨_, rfl, .inl rfl, rfl⟩
  | owWriteByte | owReadByte => exact .inl ⟨_, rfl, .inr rfl, rfl⟩
  | pxWrite =>
    cases hdir : (s.line Config.linePx).dir with
    | input => exact .inr (by simp only [startCommand, startPixel, exec, execPxWrite, hdir])
    | output =>
      refine .inl ?_
      simp only [startCommand, startPixel, hdir]
      split
      · exact ⟨_, rfl, rfl, hdir⟩
      next hn =>
        have hpos : 0 < s.px.n.toNat := Nat.pos_of_ne_zero fun h0 => hn (BitVec.eq_of_toNat_eq h0)
        exact ⟨_, rfl, hpos, by simp, rfl, hdir⟩
  | _ => exact .inr rfl

theorem Runs.afterPixelBit {released : Prop} {s t : State} (h : Runs released True s t) :
    Runs released True s (afterPixelBit t) := by
  unfold Machine.afterPixelBit
  split
  · exact h.setSeq _
  · split
    · exact h.setSeq _
    · split <;> exact h.setSeq _

/-- The two phases that sample find line 0 released, where the sequencer is where its tables allow. -/
theorem dir_of_seqLegal {s : State} (h : seqLegal s) (hphase : s.seq.phase = .rSmp ∨ s.seq.phase = .rdSmp) :
    (s.line Config.lineOw).dir = .input := by
  unfold seqLegal at h
  rcases hphase with hp | hp <;> rw [hp] at h <;> exact h.2.2

/-- A phase is a run; where the sequencer is legal it samples released lines only. -/
theorem runs_phaseStep {released : Prop} (s : State) (hs : released → seqLegal s) :
    Runs released True s (phaseStep s) := by
  have start : Runs released True s s := .start s
  cases hphase : s.seq.phase <;> simp only [phaseStep, hphase]
  case idle => exact start
  case rLow | wLow | rdInit => exact start.owDriveLow.spend _ _
  case rWait => exact (start.owRelease.setPull _ _).spend _ _
  case rSmp =>
    exact ((start.sample fun h => dir_of_seqLegal (hs h) (.inl hphase)).setSeq _).spend _ _
  case rRec => exact (start.spend _ _).finish _
  case wRel =>
    split
    · exact (start.owRelease.spend _ _).finish _
    · exact (start.owRelease.spend _ _).setSeq _
  case rdWait => exact start.owRelease.spend _ _
  case rdSmp =>
    exact ((start.sample fun h => dir_of_seqLegal (hs h) (.inr hphase)).setSeq _).spend _ _
  case rdRec =>
    split
    · exact (start.spend _ _).finish _
    · exact (start.spend _ _).setSeq _
  case pHigh => exact (start.drive _ _ _).spend _ _
  case pLow => exact ((start.drive _ _ _).spend _ _).afterPixelBit
  case pLatch => exact ((start.drive _ _ _).spend _ _).finish _

/-! ### What a run appends (R22, R40) -/

/-- `t` is `s` after the events `es`: the log holds them, the time has advanced by their waits, the waits are positive, and a
line that does not exist is at most released. -/
structure Grows (s t : State) (es : List Event) : Prop where
  log : t.log = s.log ++ es
  time : t.time = s.time + logTime es
  waits : waitsPositive es
  drives : ∀ l p, .drive l p ∈ es → l < s.lines.length ∨ p = .z
  lineCount : t.lines.length = s.lines.length

/-- An operation that leaves log, time and lines alone appends nothing. -/
theorem Grows.of_same {s t : State} (hlog : t.log = s.log) (htime : t.time = s.time) (hlines : t.lines = s.lines) :
    Grows s t [] where
  log := by simp [hlog]
  time := by simp [htime, logTime]
  waits := by simp [waitsPositive]
  drives := by simp
  lineCount := by rw [hlines]

theorem Grows.trans {s t u : State} {es fs : List Event} (h : Grows s t es) (h' : Grows t u fs) :
    Grows s u (es ++ fs) where
  log := by rw [h'.log, h.log, List.append_assoc]
  time := by rw [h'.time, h.time, logTime_append, Nat.add_assoc]
  waits := waitsPositive_append h.waits h'.waits
  drives l p hmem := by
    rcases List.mem_append.1 hmem with hmem | hmem
    · exact h.drives l p hmem
    · exact h.lineCount ▸ h'.drives l p hmem
  lineCount := h'.lineCount.trans h.lineCount

/-- A pad shown is that of a line that exists, or released. -/
theorem grows_setLine_announce (s : State) (l : Nat) (ln : Line) :
    Grows s ((s.setLine l ln).announce l) [.drive l ((s.setLine l ln).line l).pad] where
  log := rfl
  time := rfl
  waits := by simp [waitsPositive]
  drives k p hmem := by
    obtain ⟨rfl, rfl⟩ : k = l ∧ p = ((s.setLine l ln).line l).pad := by simpa using hmem
    refine (Nat.lt_or_ge k s.lines.length).imp id fun hge => ?_
    rw [line_of_length_le (by simpa using hge)]
    rfl
  lineCount := by simp

theorem grows_setPull (s : State) (l : Nat) (p : Pull) : Grows s (setPull l p s) [.pull l p] where
  log := rfl
  time := rfl
  waits := by simp [waitsPositive]
  drives := by simp
  lineCount := by simp

theorem grows_wait (s : State) (d : Nat) : Grows s (wait d s) (Spec.waited d) where
  log := by rw [wait_eq]
  time := by simp
  waits := waitsPositive_waited d
  drives l p hmem := by
    unfold Spec.waited at hmem
    split at hmem <;> simp at hmem
  lineCount := by simp

theorem grows_sample (s : State) (l : Nat) :
    Grows s (sample l s).2 [.sample l (s.envAnswer l).ext (sample l s).1] where
  log := by rw [sample_eq]
  time := by simp [sample_eq, logTime]
  waits := by simp [waitsPositive]
  drives := by simp
  lineCount := by simp [sample_eq]

/-- Every primitive appends events and their time. -/
theorem Act.grows {released sequenced : Prop} {s t : State} (h : Act released sequenced s t) : ∃ es, Grows s t es := by
  cases h with
  | pad _ l ln => exact ⟨_, grows_setLine_announce s l ln⟩
  | pull _ l p => exact ⟨_, grows_setPull s l p⟩
  | wait _ d => exact ⟨_, grows_wait s d⟩
  | sample _ l => exact ⟨_, grows_sample s l⟩
  | respond _ st data => exact ⟨[], .of_same rfl rfl rfl⟩
  | store frame => exact ⟨[], frame ▸ .of_same rfl rfl rfl⟩
  | host frame => exact ⟨[], frame ▸ .of_same rfl rfl rfl⟩
  | jump _ _ q => exact ⟨[], .of_same rfl rfl rfl⟩

theorem Runs.grows {released sequenced : Prop} {s t : State} (h : Runs released sequenced s t) :
    ∃ es, Grows s t es := by
  induction h with
  | refl => exact ⟨[], .of_same rfl rfl rfl⟩
  | tail _ hact ih =>
    obtain ⟨es, hes⟩ := ih
    obtain ⟨fs, hfs⟩ := hact.grows
    exact ⟨es ++ fs, hes.trans hfs⟩

/-- A run that leaves the sequencer alone does so. -/
theorem Runs.seq_eq {released : Prop} {s t : State} (h : Runs released False s t) : t.seq = s.seq := by
  induction h with
  | refl => rfl
  | tail _ hact ih =>
    refine Eq.trans ?_ ih
    cases hact with
    | pad | pull | respond => rfl
    | wait => simp
    | sample => simp [sample_eq]
    | store frame | host frame => rw [frame]
    | jump h => exact h.elim

/-! ### What a step can do (R9, R81, R310, R311) -/

/-- The state `u` from which a hardware reset goes on: some first events of a run from `s`, and their time. -/
def CutFrom (s u : State) : Prop :=
  ∃ (v : State) (es : List Event) (k : Nat), Runs True False s v ∧ v.log = s.log ++ es ∧
    u.log = s.log ++ es.take k ∧ u.time = s.time + logTime (es.take k) ∧ u.lines = s.lines ∧ u.cfg = s.cfg

/-- Cutting before the first event. -/
theorem cutFrom_of_same {s u : State} (hlog : u.log = s.log) (htime : u.time = s.time) (hlines : u.lines = s.lines)
    (hcfg : u.cfg = s.cfg) : CutFrom s u :=
  ⟨s, [], 0, .start s, by simp, by simp [hlog], by simp [htime, logTime], hlines, hcfg⟩

/-- The four things a step can do. -/
inductive StepResult (s : State) : State → Prop
  /-- a command as a whole, or an idle step -/
  | whole {t : State} (hphase : s.seq.phase = .idle) (hrun : Runs True False s t) : StepResult s t
  /-- a timed command enters its first phase -/
  | entered {u : State} (q : Sequencer) (hphase : s.seq.phase = .idle) (hrun : Runs True False s u)
      (hlegal : seqLegal (u.setSeq q)) : StepResult s (u.setSeq q)
  /-- a running command does its next phase -/
  | continued (hphase : s.seq.phase ≠ .idle) : StepResult s (phaseStep (quiet s))
  /-- the reset pin, between two steps or inside a command -/
  | reset {u : State} (hcut : CutFrom s u) : StepResult s (hardReset u)

section Results
variable {s : State}

/-- The script moves on and the response is over; nothing else has happened. -/
theorem runs_taken {released sequenced : Prop} (s : State) (rest : List Input) :
    Runs released sequenced s { quiet s with inputs := rest } := (Runs.start s).host rfl rfl

theorem stepResult_runPhased {u : State} (hphase : s.seq.phase = .idle) (hrun : Runs True False s u) (cmd arg : Word) :
    ∃ t, runPhased cmd arg u = .next t ∧ StepResult s t := by
  have haccept : Runs True False s (acceptWords cmd arg u) := hrun.acceptWords cmd arg
  unfold runPhased
  split
  next i _ =>
    rcases startCommand_cases i (acceptWords cmd arg u) with ⟨q, hstart, hlegal⟩ | hstart
    · exact ⟨_, hstart, .entered q hphase haccept hlegal⟩
    · obtain ⟨t, ht, htrun⟩ := answers_exec (released := True) (sequenced := False) i (acceptWords cmd arg u)
      exact ⟨t, hstart.trans ht, .whole hphase (haccept.trans htrun)⟩
  · exact ⟨_, rfl, .whole hphase (haccept.raise _)⟩

/-- The first `k` events of a command are its events, taken from its own run (R311). -/
theorem stepResult_cutCommand (cmd arg : Word) (k : Nat) (rest : List Input) :
    ∃ t, cutCommand cmd arg k { quiet s with inputs := rest } = .next t ∧ StepResult s t := by
  obtain ⟨t, ht, htrun⟩ := answers_runCommand (released := True) (sequenced := False) cmd arg
    { quiet s with inputs := rest }
  have hrun := (runs_taken s rest).trans htrun
  obtain ⟨es, hes⟩ := hrun.grows
  simp only [cutCommand, ht]
  exact ⟨_, rfl, .reset ⟨t, es, k, hrun, hes.log, by simp [hes.log], by simp [hes.log], rfl, rfl⟩⟩

theorem stepResult_takeInput (hphase : s.seq.phase = .idle) (inp : Input) (rest : List Input) :
    ∃ t, takeInput inp { quiet s with inputs := rest } = .next t ∧ StepResult s t := by
  cases inp with
  | command cmd arg =>
    obtain ⟨t, ht, htrun⟩ := answers_runCommand (released := True) (sequenced := False) cmd arg
      { quiet s with inputs := rest }
    exact ⟨t, ht, .whole hphase ((runs_taken s rest).trans htrun)⟩
  | phased cmd arg => exact stepResult_runPhased hphase (runs_taken s rest) cmd arg
  | idle d => exact ⟨_, rfl, .whole hphase ((runs_taken s rest).wait d)⟩
  | hardReset => exact ⟨_, rfl, .reset (cutFrom_of_same rfl rfl rfl rfl)⟩
  | abort cmd arg k => exact stepResult_cutCommand cmd arg k rest

theorem stepResult_busyStep (hphase : s.seq.phase ≠ .idle) :
    ∃ t, busyStep (quiet s) = .next t ∧ StepResult s t := by
  unfold busyStep
  split
  · exact ⟨_, rfl, .reset (cutFrom_of_same rfl rfl rfl rfl)⟩
  all_goals exact ⟨_, rfl, .continued hphase⟩

/-- Every step answers with one of the four results. -/
theorem exists_stepResult (s : State) : ∃ t, step s = .next t ∧ StepResult s t := by
  by_cases hphase : s.seq.phase = .idle
  · cases hinputs : s.inputs with
    | nil =>
      have hrun : Runs True False s { quiet s with draws := s.draws + 1 } := (Runs.start s).host rfl rfl
      exact ⟨_, step_of_no_input hphase hinputs, .whole hphase (hrun.wait _)⟩
    | cons inp rest =>
      rw [step_of_input hphase hinputs]
      exact stepResult_takeInput hphase inp rest
  · rw [step_busy hphase]
    exact stepResult_busyStep hphase

theorem stepResult_of_step {t : State} (h : step s = .next t) : StepResult s t := by
  obtain ⟨u, hu, hresult⟩ := exists_stepResult s
  obtain rfl : u = t := by simpa [hu] using h
  exact hresult

end Results

/-! ### The log accounts for the time (R22, R40, R330) -/

theorem waitsPositive_take {es : List Event} (h : waitsPositive es) (k : Nat) : waitsPositive (es.take k) :=
  fun d hd => h d (List.mem_of_mem_take hd)

/-- A reset after a cut: the events kept, then the reset's own. -/
theorem log_hardReset_of_cut {s u : State} (h : CutFrom s u) :
    ∃ es, (hardReset u).log = s.log ++ es ∧ (hardReset u).time = s.time + logTime es ∧ waitsPositive es := by
  obtain ⟨v, es, k, hrun, hvlog, hulog, hutime, _, _⟩ := h
  obtain ⟨fs, hfs⟩ := hrun.grows
  obtain rfl : fs = es := List.append_cancel_left (hfs.log.symm.trans hvlog)
  exact ⟨fs.take k ++ resetEvents u.cfg.numLines, by simp [hulog], by simp [hutime],
    waitsPositive_append (waitsPositive_take hfs.waits k) (waitsPositive_resetEvents _)⟩

/-- Settles O58: three of the four results of a step are runs, whatever the phase; the fourth is a reset. -/
theorem timeAndLogAdvanceTogether : Obligations.TimeAndLogAdvanceTogether := by
  intro s
  obtain ⟨t, hstep, hresult⟩ := exists_stepResult s
  refine ⟨t, ?_⟩
  cases hresult with
  | whole _ hrun =>
    obtain ⟨es, hes⟩ := hrun.grows
    exact ⟨es, hstep, hes.log, hes.time, hes.waits⟩
  | entered q _ hrun =>
    obtain ⟨es, hes⟩ := hrun.grows
    exact ⟨es, hstep, hes.log, hes.time, hes.waits⟩
  | continued =>
    obtain ⟨es, hes⟩ := (runs_phaseStep (released := False) (quiet s) False.elim).grows
    exact ⟨es, hstep, hes.log, hes.time, hes.waits⟩
  | reset hcut =>
    obtain ⟨es, hlog, htime, hwaits⟩ := log_hardReset_of_cut hcut
    exact ⟨es, hstep, hlog, htime, hwaits⟩

/-! ### The log stays faithful (R27 a, R40, R135) -/

/-- Events that take every line's pad from what it was to what it is, and sample released lines only, keep the log
faithful. -/
theorem logFaithful_append {s t : State} {es : List Event} (h : logFaithful s) (hlog : t.log = s.log ++ es)
    (hes : ∀ l, padAfter l (s.line l).pad es = (t.line l).pad ∧ samplesReleased l (s.line l).pad es) :
    logFaithful t := by
  intro l
  obtain ⟨hpad, hsamples⟩ := h l
  rw [hlog, padAfter_append, samplesReleased_append, hpad]
  exact ⟨(hes l).1, hsamples, (hes l).2⟩

/-- An operation that leaves log and lines alone. -/
theorem logFaithful_of_same {s t : State} (h : logFaithful s) (hlog : t.log = s.log) (hlines : t.lines = s.lines) :
    logFaithful t := by
  simpa only [logFaithful, State.line, hlog, hlines] using h

theorem logFaithful_setLine_announce {s : State} (h : logFaithful s) (l : Nat) (ln : Line) :
    logFaithful ((s.setLine l ln).announce l) := by
  refine logFaithful_append h rfl fun k => ⟨?_, trivial⟩
  by_cases hk : l = k
  · subst hk; simp [padAfter]
  · simp [padAfter, hk, setLine_line, Ne.symm hk]

/-- A pull does not show at the pad. -/
theorem setPull_pad (l k : Nat) (p : Pull) (s : State) : ((setPull l p s).line k).pad = (s.line k).pad := by
  rw [setPull_line]
  split
  case isTrue h => rw [h.1]; rfl
  case isFalse => rfl

theorem logFaithful_sample {s : State} {l : Nat} (h : logFaithful s) (hl : (s.line l).dir = .input) :
    logFaithful (sample l s).2 := by
  refine logFaithful_append h (grows_sample s l).log fun k => ⟨?_, ?_, trivial⟩
  · simp [padAfter, sample_eq, State.line]
  · rintro rfl
    simp [pad_eq, hl]

/-- Every primitive that samples released lines only keeps the log faithful. -/
theorem Act.logFaithful {sequenced : Prop} {s t : State} (hact : Act True sequenced s t) (h : logFaithful s) :
    logFaithful t := by
  cases hact with
  | pad _ l ln => exact logFaithful_setLine_announce h l ln
  | pull _ l p => exact logFaithful_append h rfl fun k => ⟨(setPull_pad l k p s).symm, trivial⟩
  | wait _ d => exact logFaithful_append h (grows_wait s d).log fun k => by simp
  | sample _ l hl => exact logFaithful_sample h (hl trivial)
  | respond | jump => exact logFaithful_of_same h rfl rfl
  | store frame | host frame => exact logFaithful_of_same h (by rw [frame]) (by rw [frame])

theorem Runs.logFaithful {sequenced : Prop} {s t : State} (hrun : Runs True sequenced s t) (h : logFaithful s) :
    logFaithful t := by
  induction hrun with
  | refl => exact h
  | tail _ hact ih => exact hact.logFaithful ih

/-- Events that drive line `l` nowhere but to `Z` leave a released line released. -/
theorem padAfter_released {l : Nat} {es : List Event} (h : ∀ p, .drive l p ∈ es → p = .z) :
    padAfter l .z es = .z := by
  induction es with
  | nil => rfl
  | cons e es ih =>
    have ih := ih fun p hp => h p (List.mem_cons_of_mem _ hp)
    cases e with
    | drive k p =>
      by_cases hk : k = l
      · subst hk
        obtain rfl : p = .z := h p List.mem_cons_self
        simpa [padAfter] using ih
      · simpa [padAfter, hk] using ih
    | pull | wait | sample => exact ih

/-- A reset inside a command: the events kept are the first of a faithful log, the lines there are end released by the reset,
and the others were never driven. -/
theorem logFaithful_hardReset_of_cut {s u : State} (hinv : Inv s) (h : logFaithful s) (hcut : CutFrom s u) :
    logFaithful (hardReset u) := by
  obtain ⟨v, es, k, hrun, hvlog, hulog, _, _, hcfg⟩ := hcut
  obtain ⟨fs, hfs⟩ := hrun.grows
  obtain rfl : fs = es := List.append_cancel_left (hfs.log.symm.trans hvlog)
  intro l
  obtain ⟨hpad, hsamples⟩ := h l
  have hkept : samplesReleased l (padAfter l .z s.log) (fs.take k) := by
    have hall := (hrun.logFaithful h l).2
    rw [hvlog, ← List.take_append_drop k fs] at hall
    simp only [samplesReleased_append] at hall
    exact hall.2.1
  rw [hardReset_log, hulog, hcfg, line_of_lines_replicate (hardReset_lines u)]
  refine ⟨?_, by simp [hsamples, hkept]⟩
  simp only [padAfter_append, padAfter_resetEvents]
  by_cases hl : l < s.cfg.numLines
  · rw [if_pos hl]; rfl
  · have hlen : s.lines.length ≤ l := hinv.lineCount ▸ Nat.le_of_not_lt hl
    rw [if_neg hl, hpad, line_of_length_le hlen]
    refine padAfter_released fun p hp => ?_
    exact (hfs.drives l p (List.mem_of_mem_take hp)).resolve_left (Nat.not_lt.2 hlen)

theorem logFaithful_quiet {s : State} (h : logFaithful s) : logFaithful (quiet s) := logFaithful_of_same h rfl rfl

/-- Settles O57: three of the four results of a step are runs that sample released lines only, in a phase because the
sequencer is legal. -/
theorem stepKeepsTheLogFaithful : Obligations.StepKeepsTheLogFaithful := by
  intro s t hinv hlog hstep
  cases stepResult_of_step hstep with
  | whole _ hrun => exact hrun.logFaithful hlog
  | entered q _ hrun => exact logFaithful_of_same (hrun.logFaithful hlog) rfl rfl
  | continued =>
    exact (runs_phaseStep (quiet s) fun _ => hinv.sequencer).logFaithful (logFaithful_quiet hlog)
  | reset hcut => exact logFaithful_hardReset_of_cut hinv hlog hcut

/-! ### The invariant is kept (R21, R24 to R30, R84, R266) -/

/-- The invariant but for the sequencer: what every primitive keeps. -/
structure RegistersLegal (s : State) : Prop where
  params : s.cfg.valid
  lineCount : s.lines.length = s.cfg.numLines
  memory : Memory.wf s
  ticks : ticksLegal s
  status : s.port.rspStatus.toNat ≤ 2

theorem Inv.registersLegal {s : State} (h : Inv s) : RegistersLegal s :=
  ⟨h.params, h.lineCount, h.memory, h.ticks, h.status⟩

theorem RegistersLegal.inv {s : State} (h : RegistersLegal s) (hseq : seqLegal s) : Inv s :=
  ⟨h.params, h.lineCount, h.memory, h.ticks, hseq, h.status⟩

/-- An operation on lines, time, log, port or sequencer. -/
theorem RegistersLegal.of_same {s t : State} (h : RegistersLegal s) (hcfg : t.cfg = s.cfg)
    (hlines : t.lines.length = s.lines.length) (hpx : t.px = s.px) (hma : t.ma = s.ma) (hdb : t.db = s.db)
    (htm : t.tmStart = s.tmStart) (hstatus : t.port.rspStatus.toNat ≤ 2) : RegistersLegal t where
  params := hcfg ▸ h.params
  lineCount := by rw [hlines, hcfg, h.lineCount]
  memory := wf_of_same hcfg hpx hma h.memory
  ticks := by simpa only [ticksLegal, hcfg, hdb, htm] using h.ticks
  status := hstatus

theorem Status.code_le (st : Status) : st.code.toNat ≤ 2 := by
  cases st <;> decide

theorem Act.registersLegal {released sequenced : Prop} {s t : State} (hact : Act released sequenced s t)
    (h : RegistersLegal s) : RegistersLegal t := by
  cases hact with
  | pad _ l ln => exact h.of_same rfl (by simp) rfl rfl rfl rfl h.status
  | pull _ l p => exact h.of_same rfl (by simp) rfl rfl rfl rfl h.status
  | wait _ d =>
    exact h.of_same (by simp) (by simp) (by simp) (by simp) (by simp) (by simp) (by simpa using h.status)
  | sample _ l =>
    rw [sample_eq]
    exact h.of_same rfl rfl rfl rfl rfl rfl h.status
  | respond _ st data => exact h.of_same rfl rfl rfl rfl rfl rfl st.code_le
  | store frame memory ticks =>
    have hcfg : t.cfg = s.cfg := by rw [frame]
    have hlines : t.lines = s.lines := by rw [frame]
    have hport : t.port = s.port := by rw [frame]
    exact ⟨hcfg ▸ h.params, by rw [hlines, hcfg, h.lineCount], memory h.memory, ticks h.params h.ticks,
      hport ▸ h.status⟩
  | host frame status =>
    exact h.of_same (by rw [frame]) (by rw [frame]) (by rw [frame]) (by rw [frame]) (by rw [frame])
      (by rw [frame]) (status ▸ h.status)
  | jump _ _ q => exact h.of_same rfl rfl rfl rfl rfl rfl h.status

theorem Runs.registersLegal {released sequenced : Prop} {s t : State} (hrun : Runs released sequenced s t)
    (h : RegistersLegal s) : RegistersLegal t := by
  induction hrun with
  | refl => exact h
  | tail _ hact ih => exact hact.registersLegal ih

/-- Where `P_LOW` goes is legal: the next bit, channel and triplet exist (R212). -/
theorem seqLegal_afterPixelBit {s : State} (hpix : s.seq.pxPix.toNat < s.px.n.toNat) (hchan : s.seq.pxChan.toNat ≤ 2)
    (hcnt : s.seq.cnt = 0) (hdir : (s.line Config.linePx).dir = .output) : seqLegal (afterPixelBit s) := by
  unfold afterPixelBit
  split
  · exact ⟨hpix, hchan, hcnt, hdir⟩
  · split
    case isTrue hlt =>
      refine ⟨hpix, ?_, hcnt, hdir⟩
      show (s.seq.pxChan + 1).toNat ≤ 2
      bv_omega
    case isFalse =>
      split
      case isTrue hlt =>
        refine ⟨?_, by simp, hcnt, hdir⟩
        show (s.seq.pxPix + 1).toNat < s.px.n.toNat
        bv_omega
      case isFalse => exact ⟨hcnt, hdir⟩

/-- A line driven out is an output, if it was one already. -/
theorem drive_output_dir {s : State} {l : Nat} (h : (s.line l).dir = .output) (o : Bit) :
    ((drive l .output o s).line l).dir = .output := by
  rw [drive_line]
  split
  · rfl
  · exact h

theorem seqLegal_finish (data : Word) (s : State) : seqLegal (finish data s) := rfl

@[simp] theorem owDriveLow_seq (s : State) : (owDriveLow s).seq = s.seq := rfl

@[simp] theorem owRelease_seq (s : State) : (owRelease s).seq = s.seq := rfl

@[simp] theorem sample_seq (l : Nat) (s : State) : (sample l s).2.seq = s.seq := by rw [sample_eq]

/-- Phase by phase, the next phase is one its table allows (R160, R212). -/
theorem seqLegal_phaseStep {s : State} (h : seqLegal s) : seqLegal (phaseStep s) := by
  unfold seqLegal at h
  cases hphase : s.seq.phase <;> rw [hphase] at h <;> simp only [phaseStep, hphase]
  case idle => simpa only [seqLegal, hphase] using h
  case rLow => simpa [seqLegal] using h.1
  case rWait => simpa [seqLegal, setPull_dir, owRelease, release_dir] using h.1
  case rSmp => simpa [seqLegal] using h.1
  case rRec => exact seqLegal_finish _ _
  case wLow => simpa [seqLegal] using h.1
  case wRel =>
    split
    · exact seqLegal_finish _ _
    · simpa [seqLegal, nextSlot] using h.1
  case rdInit => simpa [seqLegal] using h.1
  case rdWait => simpa [seqLegal, owRelease, release_dir] using h.1
  case rdSmp => simpa [seqLegal, sampleIntoSh] using h.1
  case rdRec =>
    split
    · exact seqLegal_finish _ _
    · simpa [seqLegal, nextSlot] using h.1
  case pHigh =>
    obtain ⟨hpix, hchan, _, hdir⟩ := h
    simpa [seqLegal] using ⟨hpix, hchan, drive_output_dir hdir 1⟩
  case pLow =>
    obtain ⟨hpix, hchan, _, hdir⟩ := h
    apply seqLegal_afterPixelBit
    · simpa using hpix
    · simpa using hchan
    · simp
    · simpa using drive_output_dir hdir 0
  case pLatch => exact seqLegal_finish _ _

/-- Settles O55: three of the four results of a step are runs, which keep all but the sequencer; the sequencer stays at rest,
enters a legal phase, or moves to the next one. -/
theorem stepKeepsTheInvariant : Obligations.StepKeepsTheInvariant := by
  intro s t hinv hstep
  cases stepResult_of_step hstep with
  | whole hphase hrun =>
    have hrest : s.seq = Sequencer.atRest := by simpa only [seqLegal, hphase] using hinv.sequencer
    refine (hrun.registersLegal hinv.registersLegal).inv ?_
    rw [seqLegal, hrun.seq_eq, hrest]
    rfl
  | entered q _ hrun hlegal =>
    have hregs := hrun.registersLegal hinv.registersLegal
    exact (hregs.of_same (t := State.setSeq _ q) rfl rfl rfl rfl rfl rfl hregs.status).inv hlegal
  | continued =>
    have hquiet : Runs False True s (quiet s) := (Runs.start s).host rfl rfl
    have hregs := (hquiet.trans (runs_phaseStep (quiet s) False.elim)).registersLegal hinv.registersLegal
    exact hregs.inv (seqLegal_phaseStep hinv.sequencer)
  | reset hcut =>
    obtain ⟨v, es, k, _, _, _, _, _, hcfg⟩ := hcut
    exact inv_hardReset (hcfg ▸ hinv.params)

end Sys2Proof.Machine
end

section
/-! SUPPORT. The family 10_state, second part: ticks in a duration, the single-wire events, PX_SET, the pulses of a frame, and
that no command reads the log. -/

namespace Sys2Proof.Machine

/-! ### Ticks (R24, R110, R111, R117) -/

/-- Settles O11: either command answers with its counter and writes the port alone. -/
theorem nowCommandsReadTheTickCounters : Obligations.NowCommandsReadTheTickCounters := by
  intro s hv
  exact ⟨⟨respondOk s.nowMs s, s.nowMs, rfl, onlyPort_respondOk _ s, okResponse_respondOk _ s, tickOfNat_toNat hv _⟩,
    ⟨respondOk s.nowUs s, s.nowUs, rfl, onlyPort_respondOk _ s, okResponse_respondOk _ s, tickOfNat_toNat hv _⟩⟩

/-- The ticks made in `d` are those of `d` alone, and one more when the two remainders together fill a tick. -/
theorem ticks_add (u T d : Nat) (hu : 0 < u) :
    (T + d) / u - T / u = d / u + if u ≤ T % u + d % u then 1 else 0 := by
  rw [Nat.add_div hu, Nat.add_assoc, Nat.add_sub_cancel_left]

/-- Settles O15: a multiple of the unit leaves no remainder that could fill one more tick. -/
theorem ticksInADuration : Obligations.TicksInADuration := by
  intro P u T d hv hunit
  have hu : 0 < u := by omega
  have hticks := ticks_add u T d hu
  refine ⟨_, rfl, ?count, ?exact, ?difference⟩
  case count =>
    rw [hticks]
    split
    · exact .inr rfl
    · exact .inl rfl
  case exact =>
    intro hd
    have hlt : T % u < u := Nat.mod_lt T hu
    rw [hticks, if_neg (by omega), Nat.add_zero]
  case difference =>
    rw [tdiff_tickOfNat hv, tickDiff_of_le P (Nat.div_le_div_right (Nat.le_add_right T d))]

/-! ### The events of the single-wire commands (R27 b, R156, R326) -/

/-- An event of line 0 that drives it low or releases it, or sets its pull-up, or samples it; or a wait. -/
def OwEvent : Event → Prop
  | .drive k p => k = 0 ∧ p ≠ .h
  | .pull k p => k = 0 ∧ p = .pullUp
  | .sample k _ _ => k = 0
  | .wait _ => True

/-- All the events are such. -/
def OwEvents (es : List Event) : Prop := ∀ e ∈ es, OwEvent e

@[simp] theorem owEvents_nil : OwEvents [] := by simp [OwEvents]

@[simp] theorem owEvents_cons (e : Event) (es : List Event) : OwEvents (e :: es) ↔ OwEvent e ∧ OwEvents es := by
  simp [OwEvents]

@[simp] theorem owEvents_append (es fs : List Event) : OwEvents (es ++ fs) ↔ OwEvents es ∧ OwEvents fs :=
  List.forall_mem_append

theorem owEvents_flatMap {α : Type} {f : α → List Event} (h : ∀ a, OwEvents (f a)) (as : List α) :
    OwEvents (as.flatMap f) := by
  intro e he
  obtain ⟨a, _, hea⟩ := List.mem_flatMap.1 he
  exact h a e hea

@[simp] theorem owEvents_waited (d : Nat) : OwEvents (Spec.waited d) := by
  unfold Spec.waited
  split <;> simp [OwEvent]

theorem owEvents_writeSlot (P : Config.Params) (bit : Bit) : OwEvents (Spec.writeSlotEvents P bit) := by
  simp [Spec.writeSlotEvents, OwEvent]

theorem owEvents_readSlot (P : Config.Params) (pull : Pull) (a : EnvAnswer) :
    OwEvents (Spec.readSlotEvents P pull a) := by
  simp [Spec.readSlotEvents, OwEvent]

theorem owEvents_reset (P : Config.Params) (a : EnvAnswer) : OwEvents (Spec.owResetEvents P a) := by
  simp [Spec.owResetEvents, OwEvent]

/-- What O29 says of a state the command leaves. -/
def OwOnly (s t : State) : Prop :=
  ∃ es, t.log = s.log ++ es ∧ OwEvents es ∧ ∀ k, k ≠ 0 → t.line k = s.line k

/-- Slots touch line 0 alone. -/
theorem owOnly_owDone {s : State} (h : 0 < s.lines.length) (d k : Nat) {es : List Event} (hes : OwEvents es) :
    OwOnly s (owDone s d es k) :=
  ⟨es, owDone_log s d es k, hes, fun l hl => by rw [owDone_line s d es k h, if_neg hl]⟩

theorem owOnly_respondOk {s t : State} (h : OwOnly s t) (data : Word) : OwOnly s (respondOk data t) := by
  obtain ⟨es, hlog, hes, hlines⟩ := h
  exact ⟨es, hlog, hes, fun k hk => by rw [respondOk_line, hlines k hk]⟩

/-- So does a reset pulse with its presence sample (R151). -/
theorem owOnly_owReset {s : State} (h : 0 < s.lines.length) :
    OwOnly s (wait s.cfg.tRstrec (sample Config.lineOw (resetLead s)).2) := by
  refine ⟨Spec.owResetEvents s.cfg ((resetLead s).envAnswer 0), ?log, owEvents_reset _ _, ?lines⟩
  case log =>
    have hpull : ((resetLead s).line 0).pull = .pullUp := by
      rw [resetLead_eq s h]
      simp [State.line, h]
    rw [wait_eq, sample_eq, Config.lineOw, hpull]
    generalize (resetLead s).envAnswer 0 = a
    rw [resetLead_eq s h]
    simp [Spec.owResetEvents]
  case lines =>
    intro k hk
    rw [wait_line, sample_eq]
    exact (line_of_lines_set (by rw [resetLead_eq s h]) h k).trans (if_neg hk)

theorem exec_owOnly {i : Instr} {s : State} (hi : Spec.isOneWire i = true) (hv : s.cfg.valid)
    (h : 0 < s.lines.length) : ∃ t, exec i s = .next t ∧ OwOnly s t := by
  cases i with
  | owReset => exact ⟨_, rfl, owOnly_respondOk (owOnly_owReset h) _⟩
  | owWriteBit bit =>
    refine ⟨_, rfl, owOnly_respondOk ?_ 0⟩
    rw [writeSlot_done bit s hv h]
    exact owOnly_owDone h _ _ (owEvents_writeSlot _ _)
  | owReadBit =>
    obtain ⟨a, _, hslot⟩ := readSlot_done s hv h
    refine ⟨respondOk (zextBit (readSlot s).1) (readSlot s).2, rfl, owOnly_respondOk ?_ _⟩
    rw [hslot]
    exact owOnly_owDone h _ _ (owEvents_readSlot _ _ _)
  | owWriteByte byte =>
    refine ⟨_, exec_owWriteByte byte s, owOnly_respondOk ?_ 0⟩
    rw [writeSlots_done _ s hv h (by simp [bitsLsbFirst])]
    exact owOnly_owDone h _ _ (owEvents_flatMap (owEvents_writeSlot _) _)
  | owReadByte =>
    obtain ⟨as, v, hslots, _⟩ := readSlots_done 8 0 0 s hv h (by decide) (by decide)
    refine ⟨_, exec_owReadByte s, owOnly_respondOk ?_ _⟩
    rw [hslots]
    exact owOnly_owDone h _ _ (owEvents_flatMap (owEvents_readSlot _ _) _)
  | _ => exact absurd hi Bool.false_ne_true

/-- Settles O29: the events of slots and of the reset are those R151 to R155 name. -/
theorem owTouchesLineZeroAloneNeverHigh : Obligations.OwTouchesLineZeroAloneNeverHigh := by
  intro i s hi hv hlen
  have hexists : 0 < s.lines.length := hlen ▸ Nat.lt_of_lt_of_le (by decide) hv.2.1.1
  obtain ⟨t, ht, es, hlog, hes, hlines⟩ := exec_owOnly hi hv hexists
  exact ⟨t, es, ht, hlog, fun _ _ he => hes _ he, fun _ _ he => hes _ he, fun _ _ _ he => hes _ he, hlines⟩

/-! ### PX_SET (R202) -/

theorem exec_pxSet (index : Word) (r g b : Byte) (s : State) :
    exec (.pxSet index r g b) s = if index.toNat < s.px.n.toNat
      then .next (respondOk 0 { s with px := { s.px with entries := s.px.entries.set index.toNat ⟨r, g, b⟩ } })
      else .next (respondOk 0 s) := rfl

/-- Settles O33: below `px_n` one entry of the list is set, at or beyond it nothing is. -/
theorem pxSetStoresOneTriplet : Obligations.PxSetStoresOneTriplet := by
  intro s index r g b hlen
  rw [exec_pxSet]
  by_cases hindex : index.toNat < s.px.n.toNat
  · rw [if_pos hindex]
    refine ⟨_, rfl, okResponse_respondOk 0 _, rfl, fun _ => ?stored, fun j hj => ?others, fun hge => ?outside, rfl⟩
    case stored => exact List.getElem?_set_self (hlen ▸ hindex)
    case others => exact List.getElem?_set_ne hj.symm
    case outside => exact absurd hindex (Nat.not_lt.2 hge)
  · rw [if_neg hindex]
    exact ⟨_, rfl, okResponse_respondOk 0 _, rfl, fun h => absurd h hindex, fun _ _ => rfl, fun _ => rfl, rfl⟩

/-! ### The waveform of a frame (R41, R205, R207, R214) -/

/-- The runs of a frame on its line: a high and a low for each bit, the last low lengthened by the gap. -/
def frameRuns (P : Config.Params) (gap : Nat) : List Bit → List (Pad × Nat)
  | [] => []
  | [v] => [(.h, cellHigh P v), (.l, cellLow P v + gap)]
  | v :: w :: bits => (.h, cellHigh P v) :: (.l, cellLow P v) :: frameRuns P gap (w :: bits)

theorem cellHigh_pos {P : Config.Params} (hv : P.valid) (v : Bit) : 0 < cellHigh P v := by
  obtain ⟨-, -, -, -, -, -, -, ⟨h0, -⟩, ⟨h1, -⟩, -⟩ := hv
  unfold cellHigh
  split <;> omega

theorem cellLow_pos {P : Config.Params} (hv : P.valid) (v : Bit) : 0 < cellLow P v := by
  obtain ⟨-, -, -, -, -, -, -, ⟨h0, h0'⟩, ⟨-, -, h1⟩, -⟩ := hv
  unfold cellLow
  split <;> omega

theorem cellEvents_eq {P : Config.Params} (hv : P.valid) (v : Bit) :
    Spec.cellEvents P v = [.drive 1 .h, .wait (cellHigh P v), .drive 1 .l, .wait (cellLow P v)] := by
  have hhigh := waited_pos (cellHigh_pos hv v)
  have hlow := waited_pos (cellLow_pos hv v)
  unfold cellHigh at hhigh
  unfold cellLow at hlow
  rw [Spec.cellEvents, hhigh, hlow]
  rfl

/-- A cell in front of events whose waveform is known: one high run, and a low one that meets what follows (R41). -/
theorem wave_cellEvents {P : Config.Params} (hv : P.valid) (v : Bit) (cur : Pad) (es : List Event) :
    wave 1 cur (Spec.cellEvents P v ++ es) =
      pushRun .h (cellHigh P v) (pushRun .l (cellLow P v) (wave 1 .l es)) := by
  simp [cellEvents_eq hv, wave]

/-- The waveform of the cells of some bits and the latch gap after them. -/
theorem wave_frame {P : Config.Params} (hv : P.valid) (bits : List Bit) (hbits : bits ≠ []) (cur : Pad) :
    wave 1 cur (bits.flatMap (Spec.cellEvents P) ++ [.drive 1 .l, .wait P.tLatch]) =
      frameRuns P P.tLatch bits := by
  induction bits generalizing cur with
  | nil => exact absurd rfl hbits
  | cons v bits ih =>
    rw [List.flatMap_cons, List.append_assoc, wave_cellEvents hv]
    cases bits with
    | nil => simp [wave, pushRun, frameRuns]
    | cons w bits =>
      rw [ih (List.cons_ne_nil w bits)]
      cases bits <;> simp [pushRun, frameRuns]

theorem length_frameRuns (P : Config.Params) (gap : Nat) (bits : List Bit) :
    (frameRuns P gap bits).length = 2 * bits.length := by
  induction bits using frameRuns.induct with
  | case1 => rfl
  | case2 v => rfl
  | case3 v w bits ih => simp only [frameRuns, List.length_cons] at ih ⊢; omega

/-- The runs alternate, high first. -/
theorem frameRuns_alternate (P : Config.Params) (gap : Nat) (bits : List Bit) {k : Nat} (hk : k < bits.length) :
    (frameRuns P gap bits)[2 * k]?.map Prod.fst = some .h ∧
      (frameRuns P gap bits)[2 * k + 1]?.map Prod.fst = some .l := by
  induction bits using frameRuns.induct generalizing k with
  | case1 => exact absurd hk (Nat.not_lt_zero k)
  | case2 v =>
    obtain rfl : k = 0 := by simpa using hk
    exact ⟨rfl, rfl⟩
  | case3 v w bits ih =>
    cases k with
    | zero => exact ⟨rfl, rfl⟩
    | succ k => exact ih (Nat.lt_of_succ_lt_succ hk)

/-- The last run is low, and long enough to latch. -/
theorem frameRuns_last (P : Config.Params) (gap : Nat) (bits : List Bit) (hbits : bits ≠ []) :
    ∃ d, (frameRuns P gap bits)[2 * bits.length - 1]? = some (.l, d) ∧ gap ≤ d := by
  induction bits using frameRuns.induct with
  | case1 => exact absurd rfl hbits
  | case2 v => exact ⟨_, rfl, Nat.le_add_left gap _⟩
  | case3 v w bits ih => exact ih (List.cons_ne_nil w bits)

/-- PX_WRITE on an output line. -/
theorem exec_pxWrite_of_output {s : State} (hdir : (s.line 1).dir = .output) (h : 1 < s.lines.length) :
    exec .pxWrite s = .next (respondOk 0 (pxDone s (Spec.frameEvents s.cfg s.px.entries s.px.n.toNat))) := by
  simp only [exec, execPxWrite, Config.linePx, hdir, pxFrame_done s h]

/-- A frame ends with its line low. -/
theorem padAfter_frameEvents (P : Config.Params) (px : List Triplet) (n : Nat) (cur : Pad) :
    padAfter 1 cur (Spec.frameEvents P px n) = .l := by
  simp [Spec.frameEvents, padAfter]

/-- Settles O37: the frame of one entry has 24 bits, each a high and a low run, the last low joined to the latch gap. -/
theorem pxFrameHasTwentyFourPulses : Obligations.PxFrameHasTwentyFourPulses := by
  intro s hv hlen hdir _ hn
  have hexists : 1 < s.lines.length := hlen ▸ hv.2.1.1
  obtain ⟨-, -, -, -, -, -, -, -, -, ⟨hmin, hlatch⟩, -⟩ := id hv
  have hbits : (Spec.frameBits s.px.entries s.px.n.toNat).length = 24 := by simp [Spec.frameBits, hn]
  have hne : Spec.frameBits s.px.entries s.px.n.toNat ≠ [] := List.ne_nil_of_length_pos (by omega)
  have hwave : wave 1 .l (Spec.frameEvents s.cfg s.px.entries s.px.n.toNat) =
      frameRuns s.cfg s.cfg.tLatch (Spec.frameBits s.px.entries s.px.n.toNat) := by
    rw [Spec.frameEvents, waited_pos (Nat.lt_of_lt_of_le hmin hlatch), List.append_assoc]
    exact wave_frame hv _ hne .l
  refine ⟨_, _, exec_pxWrite_of_output hdir hexists, rfl, ?_⟩
  rw [hwave]
  refine ⟨by rw [length_frameRuns, hbits], fun k hk => frameRuns_alternate _ _ _ (hbits ▸ hk), ?last,
    padAfter_frameEvents _ _ _ _⟩
  obtain ⟨d, hd, hle⟩ := frameRuns_last s.cfg s.cfg.tLatch _ hne
  rw [hbits] at hd
  exact ⟨d, hd, hlatch.trans hle⟩

/-! ### No command reads the log (R40) -/

/-- Two states that differ in the log alone, the logs being `old` and `other` with the same events appended. -/
def Twin (old other : List Event) (s s' : State) : Prop :=
  ∃ es, s.log = old ++ es ∧ s' = { s with log := other ++ es }

/-- Two outcomes that are next states of that kind. -/
def TwinOutcomes (old other : List Event) (o o' : Host.Outcome State Fault Refusal) : Prop :=
  ∃ t t', o = .next t ∧ o' = .next t' ∧ Twin old other t t'

section Twins
variable {old other : List Event} {s s' : State}

theorem Twin.start (s : State) (other : List Event) : Twin s.log other s { s with log := other } :=
  ⟨[], (List.append_nil _).symm, by rw [List.append_nil]⟩

theorem Twin.next (h : Twin old other s s') : TwinOutcomes old other (.next s) (.next s') := ⟨s, s', rfl, rfl, h⟩

/-- An operation that gives the same state whatever the log, and appends the same events to it. -/
theorem Twin.apply {f : State → State} (h : Twin old other s s') (fs : List Event)
    (hf : ∀ log, f { s with log := log } = { f s with log := log ++ fs }) : Twin old other (f s) (f s') := by
  obtain ⟨es, hlog, rfl⟩ := h
  have hself : (f s).log = s.log ++ fs := congrArg State.log (hf s.log)
  exact ⟨es ++ fs, by rw [hself, hlog, List.append_assoc], by rw [hf, List.append_assoc]⟩

theorem Twin.cfg (h : Twin old other s s') : s'.cfg = s.cfg := by obtain ⟨_, _, rfl⟩ := h; rfl
theorem Twin.hasLine (h : Twin old other s s') (line : Byte) : s'.hasLine line = s.hasLine line := by
  obtain ⟨_, _, rfl⟩ := h; rfl
theorem Twin.line (h : Twin old other s s') (l : Nat) : s'.line l = s.line l := by obtain ⟨_, _, rfl⟩ := h; rfl
theorem Twin.pixel (h : Twin old other s s') (i : Nat) : s'.pixel i = s.pixel i := by obtain ⟨_, _, rfl⟩ := h; rfl

theorem Twin.respondOk (h : Twin old other s s') (data : Word) :
    Twin old other (respondOk data s) (respondOk data s') := h.apply [] fun _ => by rw [List.append_nil]; rfl

theorem Twin.setLineAnnounce (h : Twin old other s s') (l : Nat) (ln : Line) :
    Twin old other ((s.setLine l ln).announce l) ((s'.setLine l ln).announce l) :=
  h.apply (f := fun u => (u.setLine l ln).announce l) [.drive l ((s.setLine l ln).line l).pad] fun _ => rfl

theorem Twin.drive (h : Twin old other s s') (l : Nat) (d : Dir) (o : Bit) :
    Twin old other (drive l d o s) (drive l d o s') := by
  simp only [Machine.drive, h.line]
  exact h.setLineAnnounce l _

theorem Twin.release (h : Twin old other s s') (l : Nat) : Twin old other (release l s) (release l s') :=
  h.apply [_] fun _ => rfl

theorem Twin.setPull (h : Twin old other s s') (l : Nat) (p : Pull) :
    Twin old other (setPull l p s) (setPull l p s') := h.apply [_] fun _ => rfl

theorem Twin.wait (h : Twin old other s s') (d : Nat) : Twin old other (wait d s) (wait d s') :=
  h.apply (Spec.waited d) fun _ => by simp only [wait_eq]

/-- A scripted sample in one equation. -/
theorem sample_scripted {s : State} {l : Nat} {a : EnvAnswer} {rest : List EnvAnswer} (h : s.answers = a :: rest) :
    sample l s = (Spec.levelOf a (s.line l).pull, { s with
      log := s.log ++ [.sample l a.ext (Spec.levelOf a (s.line l).pull)], answers := rest }) := by
  simp [sample_eq, envAnswer_scripted h, h]

/-- A scripted sample gives the same level, whatever the log; only a free one may depend on it (R12). -/
theorem Twin.sample (h : Twin old other s s') (l : Nat) (ha : s.answers ≠ []) :
    (sample l s').1 = (sample l s).1 ∧ Twin old other (sample l s).2 (sample l s').2 := by
  obtain ⟨a, rest, hrest⟩ := List.exists_cons_of_ne_nil ha
  obtain ⟨es, hlog, rfl⟩ := h
  rw [sample_scripted hrest, sample_scripted (s := { s with log := other ++ es }) hrest]
  exact ⟨rfl, _, by rw [hlog, List.append_assoc], by rw [← List.append_assoc]; rfl⟩

theorem Twin.writeSlot (h : Twin old other s s') (bit : Bit) : Twin old other (writeSlot bit s) (writeSlot bit s') := by
  simp only [Machine.writeSlot, h.cfg]
  exact (((h.drive _ _ _).wait _).release _).wait _

theorem Twin.writeSlots (h : Twin old other s s') (bits : List Bit) :
    Twin old other (writeSlots bits s) (writeSlots bits s') := by
  induction bits generalizing s s' with
  | nil => exact h
  | cons b bits ih => exact ih (h.writeSlot b)

theorem readLead_answers (s : State) : (readLead s).answers = s.answers := by
  simp [readLead, owRelease, owDriveLow]

theorem Twin.readSlot (h : Twin old other s s') (ha : s.answers ≠ []) :
    (readSlot s').1 = (readSlot s).1 ∧ Twin old other (readSlot s).2 (readSlot s').2 := by
  have hlead : Twin old other (readLead s) (readLead s') := by
    simp only [readLead, h.cfg]
    exact (((h.drive _ _ _).wait _).release _).wait _
  obtain ⟨hlevel, hsample⟩ := hlead.sample Config.lineOw (by rwa [readLead_answers])
  refine ⟨hlevel, ?_⟩
  simp only [Machine.readSlot, h.cfg]
  exact hsample.wait _

theorem readSlot_answers (s : State) : (readSlot s).2.answers = s.answers.tail := by
  simp [readSlot, sample_eq, readLead_answers]

theorem Twin.readSlots (h : Twin old other s s') (k i : Nat) (r : Byte) (ha : k ≤ s.answers.length) :
    (readSlots k i r s').1 = (readSlots k i r s).1 ∧ Twin old other (readSlots k i r s).2 (readSlots k i r s').2 := by
  induction k generalizing i r s s' with
  | zero => exact ⟨rfl, h⟩
  | succ k ih =>
    obtain ⟨hlevel, hslot⟩ := h.readSlot (List.ne_nil_of_length_pos (by omega))
    have hleft : k ≤ (Machine.readSlot s).2.answers.length := by
      rw [readSlot_answers, List.length_tail]
      omega
    simp only [Machine.readSlots, hlevel]
    exact ih hslot (i + 1) _ hleft

theorem Twin.emitBit (h : Twin old other s s') (v : Bit) : Twin old other (emitBit v s) (emitBit v s') := by
  simp only [Machine.emitBit, h.cfg]
  exact (((h.drive _ _ _).wait _).drive _ _ _).wait _

theorem Twin.emitBits (h : Twin old other s s') (bits : List Bit) :
    Twin old other (emitBits bits s) (emitBits bits s') := by
  induction bits generalizing s s' with
  | nil => exact h
  | cons v bits ih => exact ih (h.emitBit v)

theorem Twin.emitTriplets (h : Twin old other s s') (k p : Nat) :
    Twin old other (emitTriplets k p s) (emitTriplets k p s') := by
  induction k generalizing p s s' with
  | zero => exact h
  | succ k ih =>
    simp only [Machine.emitTriplets, h.pixel]
    exact ih (h.emitBits _) (p + 1)

theorem Twin.latchGap (h : Twin old other s s') : Twin old other (latchGap s) (latchGap s') := by
  simp only [Machine.latchGap, h.cfg]
  exact (h.drive _ _ _).wait _

end Twins

/-- The outcome of a command that neither reads nor writes the log. -/
theorem twinOutcomes_registers {s t t' : State} {other : List Event} (hlog : t.log = s.log)
    (ht : t' = { t with log := other }) : TwinOutcomes s.log other (.next t) (.next t') :=
  ⟨t, t', rfl, rfl, [], by rw [hlog, List.append_nil], by rw [ht, List.append_nil]⟩

/-- The branch a command takes does not depend on the log; each branch answers for itself. -/
theorem twinOutcomes_ite {old other : List Event} {p : Prop} [Decidable p]
    {a b a' b' : Host.Outcome State Fault Refusal} (ha : TwinOutcomes old other a a')
    (hb : TwinOutcomes old other b b') : TwinOutcomes old other (if p then a else b) (if p then a' else b') := by
  split
  · exact ha
  · exact hb

section Commands
variable (s : State) (other : List Event)

theorem exec_dlWrite_twin (line : Byte) (level : Bit) :
    TwinOutcomes s.log other (exec (.dlWrite line level) s) (exec (.dlWrite line level) { s with log := other }) := by
  have h := Twin.start s other
  simp only [exec, execDlWrite, h.line, h.hasLine]
  split
  · split
    · exact twinOutcomes_registers rfl rfl
    · exact ((h.setLineAnnounce _ _).respondOk 0).next
  · exact twinOutcomes_registers rfl rfl

theorem exec_dlRead_twin (line : Byte) (ha : s.answers ≠ []) :
    TwinOutcomes s.log other (exec (.dlRead line) s) (exec (.dlRead line) { s with log := other }) := by
  have h := Twin.start s other
  obtain ⟨hlevel, hsample⟩ := h.sample (lineOperand line) ha
  simp only [exec, execDlRead, h.line, h.hasLine, hlevel]
  split
  · split
    · exact twinOutcomes_registers rfl rfl
    · exact (hsample.respondOk _).next
  · exact twinOutcomes_registers rfl rfl

theorem resetLead_answers (s : State) : (resetLead s).answers = s.answers := by
  simp [resetLead, owRelease, owDriveLow]

theorem exec_owReset_twin (ha : s.answers ≠ []) :
    TwinOutcomes s.log other (exec .owReset s) (exec .owReset { s with log := other }) := by
  have hlead : Twin s.log other (resetLead s) (resetLead { s with log := other }) :=
    (((((Twin.start s other).drive _ _ _).wait _).release _).setPull _ _).wait _
  obtain ⟨hlevel, hsample⟩ := hlead.sample Config.lineOw (by rwa [resetLead_answers])
  simp only [exec, execOwReset, hlevel]
  exact ((hsample.wait _).respondOk _).next

theorem exec_owReadBit_twin (ha : s.answers ≠ []) :
    TwinOutcomes s.log other (exec .owReadBit s) (exec .owReadBit { s with log := other }) := by
  obtain ⟨hlevel, hslot⟩ := (Twin.start s other).readSlot ha
  simp only [exec, execOwReadBit, hlevel]
  exact (hslot.respondOk _).next

theorem exec_owReadByte_twin (ha : 8 ≤ s.answers.length) :
    TwinOutcomes s.log other (exec .owReadByte s) (exec .owReadByte { s with log := other }) := by
  obtain ⟨hbyte, hslots⟩ := (Twin.start s other).readSlots 8 0 0 ha
  rw [exec_owReadByte, exec_owReadByte, hbyte]
  exact (hslots.respondOk _).next

theorem exec_pxWrite_twin :
    TwinOutcomes s.log other (exec .pxWrite s) (exec .pxWrite { s with log := other }) := by
  have h := Twin.start s other
  simp only [exec, execPxWrite, h.line]
  split
  · exact twinOutcomes_registers rfl rfl
  · exact ((h.emitTriplets _ 0).latchGap.respondOk 0).next

/-- Every command takes a state and one with another log to outcomes that differ in the log alone. -/
theorem exec_twin (i : Instr) (ha : 8 ≤ s.answers.length) :
    TwinOutcomes s.log other (exec i s) (exec i { s with log := other }) := by
  have h := Twin.start s other
  have hsome : s.answers ≠ [] := List.ne_nil_of_length_pos (by omega)
  cases i with
  | nowMs | nowUs | elapsedMs | elapsedUs | tmStart | tmElapsed => exact twinOutcomes_registers rfl rfl
  | svAngle | svPulse | dbInit | dbRead | maAdd | maAvg | maReset | pxFill => exact twinOutcomes_registers rfl rfl
  | pxInit | maInit | pxSet =>
    exact twinOutcomes_ite (twinOutcomes_registers rfl rfl) (twinOutcomes_registers rfl rfl)
  | dlSetDir line dir =>
    exact twinOutcomes_ite ((h.setLineAnnounce _ _).respondOk 0).next (twinOutcomes_registers rfl rfl)
  | dlSetPull line pull => exact twinOutcomes_ite ((h.setPull _ _).respondOk 0).next (twinOutcomes_registers rfl rfl)
  | dlWrite line level => exact exec_dlWrite_twin s other line level
  | dlRead line => exact exec_dlRead_twin s other line hsome
  | owReset => exact exec_owReset_twin s other hsome
  | owWriteBit bit => exact ((h.writeSlot bit).respondOk 0).next
  | owReadBit => exact exec_owReadBit_twin s other hsome
  | owWriteByte byte =>
    rw [exec_owWriteByte, exec_owWriteByte]
    exact ((h.writeSlots _).respondOk 0).next
  | owReadByte => exact exec_owReadByte_twin s other ha
  | pxWrite => exact exec_pxWrite_twin s other

end Commands

/-- Settles O53: the events a command appends are the same, whatever the log. -/
theorem noCommandReadsTheLog : Obligations.NoCommandReadsTheLog := by
  intro i s other ha
  obtain ⟨t, t', ht, ht', es, hlog, rfl⟩ := exec_twin s other i ha
  exact ⟨t, es, ht, hlog, ht'⟩

end Sys2Proof.Machine
end

section
/-! SUPPORT. The family 20_memory: what work on one line leaves unchanged, the step of a busy core, the byte commands of the
single-wire bus, and the table of writes of R77. -/

namespace Sys2Proof.Machine

/-! ### Work on one line (R11, R77)

A timed command, whole or phase by phase, acts on the machine by pads, pulls, waits and samples of one line. -/

/-- `t` is `s` after such work on line `l`: the port, the other units and the script are as they were, and so are the other
lines. -/
structure OnLine (l : Nat) (s t : State) : Prop where
  frame : t = { s with
    time := t.time
    log := t.log
    lines := t.lines
    seq := t.seq
    answers := t.answers
    draws := t.draws }
  others : ∀ k, k ≠ l → t.line k = s.line k

section Operations
variable {l : Nat} {s t u : State}

theorem OnLine.start (l : Nat) (s : State) : OnLine l s s := ⟨rfl, fun _ _ => rfl⟩

theorem OnLine.trans (h : OnLine l s t) (h' : OnLine l t u) : OnLine l s u where
  frame := h'.frame.trans (by rw [h.frame])
  others k hk := (h'.others k hk).trans (h.others k hk)

theorem OnLine.cfg (h : OnLine l s t) : t.cfg = s.cfg := by rw [h.frame]
theorem OnLine.port (h : OnLine l s t) : t.port = s.port := by rw [h.frame]
theorem OnLine.tmStart (h : OnLine l s t) : t.tmStart = s.tmStart := by rw [h.frame]
theorem OnLine.px (h : OnLine l s t) : t.px = s.px := by rw [h.frame]
theorem OnLine.db (h : OnLine l s t) : t.db = s.db := by rw [h.frame]
theorem OnLine.ma (h : OnLine l s t) : t.ma = s.ma := by rw [h.frame]
theorem OnLine.inputs (h : OnLine l s t) : t.inputs = s.inputs := by rw [h.frame]

theorem OnLine.setLineAnnounce (h : OnLine l s t) (ln : Line) : OnLine l s ((t.setLine l ln).announce l) :=
  h.trans ⟨rfl, fun k hk => by simp [setLine_line, hk]⟩

theorem OnLine.drive (h : OnLine l s t) (d : Dir) (o : Bit) : OnLine l s (drive l d o t) := h.setLineAnnounce _

theorem OnLine.release (h : OnLine l s t) : OnLine l s (release l t) := by
  rw [release_eq_announce]
  exact h.setLineAnnounce _

theorem OnLine.setPull (h : OnLine l s t) (p : Pull) : OnLine l s (setPull l p t) :=
  h.trans ⟨rfl, fun k hk => by simp [setPull_line, hk]⟩

theorem OnLine.wait (h : OnLine l s t) (d : Nat) : OnLine l s (wait d t) :=
  h.trans ⟨by rw [wait_eq], fun k _ => wait_line d t k⟩

theorem OnLine.sample (h : OnLine l s t) (k : Nat) : OnLine l s (sample k t).2 :=
  h.trans ⟨by rw [sample_eq], fun _ _ => by rw [sample_eq]; rfl⟩

theorem OnLine.setSeq (h : OnLine l s t) (q : Sequencer) : OnLine l s (t.setSeq q) :=
  h.trans ⟨rfl, fun _ _ => rfl⟩

theorem OnLine.spend (h : OnLine l s t) (len : Nat) (next : Phase) : OnLine l s (spend len next t) :=
  ((h.setSeq _).wait _).setSeq _ |>.setSeq _

end Operations

/-! ### A busy core (R81, R160, R212) -/

/-- What a phase can do: work on one line, and no more unless it is the last, which responds `OK` and goes to rest. -/
inductive PhaseResult (s : State) : State → Prop
  | going {l : Nat} {t : State} (h : OnLine l s t) : PhaseResult s t
  | last {l : Nat} {u : State} (h : OnLine l s u) (data : Word) : PhaseResult s (finish data u)

/-- Where `P_LOW` goes is a write of the sequencer alone (R212). -/
theorem OnLine.afterPixelBit {l : Nat} {s t : State} (h : OnLine l s t) : OnLine l s (afterPixelBit t) := by
  unfold Machine.afterPixelBit
  split
  · exact h.setSeq _
  · split
    · exact h.setSeq _
    · split <;> exact h.setSeq _

/-- Phase by phase: the single-wire phases work on line 0, the pixel phases on line 1. -/
theorem phaseResult_phaseStep (s : State) : PhaseResult s (phaseStep s) := by
  have onOw : OnLine Config.lineOw s s := .start _ s
  have onPx : OnLine Config.linePx s s := .start _ s
  cases hphase : s.seq.phase <;> simp only [phaseStep, hphase]
  case idle => exact .going onOw
  case rLow | wLow | rdInit => exact .going ((onOw.drive _ _).spend _ _)
  case rWait => exact .going ((onOw.release.setPull _).spend _ _)
  case rSmp => exact .going (((onOw.sample _).setSeq _).spend _ _)
  case rRec => exact .last (onOw.spend _ _) _
  case wRel =>
    split
    · exact .last (onOw.release.spend _ _) _
    · exact .going ((onOw.release.spend _ _).setSeq _)
  case rdWait => exact .going (onOw.release.spend _ _)
  case rdSmp => exact .going (((onOw.sample _).setSeq _).spend _ _)
  case rdRec =>
    split
    · exact .last (onOw.spend _ _) _
    · exact .going ((onOw.spend _ _).setSeq _)
  case pHigh => exact .going ((onPx.drive _ _).spend _ _)
  case pLow => exact .going ((onPx.drive _ _).spend _ _).afterPixelBit
  case pLatch => exact .last ((onPx.drive _ _).spend _ _) _

/-- A busy core takes nothing from the script but the reset. -/
theorem step_of_no_reset {s : State} (hphase : s.seq.phase ≠ .idle) (hinputs : ∀ rest, s.inputs ≠ .hardReset :: rest) :
    step s = .next (phaseStep (quiet s)) := by
  rw [step_busy hphase]
  unfold busyStep
  split
  next rest hreset => exact absurd hreset (hinputs rest)
  all_goals rfl

/-- A legal word to be run phase by phase starts its command, once the words are latched. -/
theorem runPhased_of_decode_ok {s : State} {cmd arg : Word} {i : Instr} (h : decode s.cfg cmd arg = .ok i) :
    runPhased cmd arg s = startCommand i (acceptWords cmd arg s) := by
  simp only [runPhased, h]

/-- An illegal word raises `ILLEGAL`, however it was to be run (R282). -/
theorem runPhased_of_decode_error {s : State} {cmd arg : Word} {e : DecodeError}
    (h : decode s.cfg cmd arg = .error e) : runPhased cmd arg s = .next (raise .illegal (acceptWords cmd arg s)) := by
  simp only [runPhased, h]

/-- Settles O10: a phase works on one line; only the last one touches the port, by its response. -/
theorem busyCoreHoldsBackTheScript : Obligations.BusyCoreHoldsBackTheScript := by
  constructor
  · intro s cmd arg rest hphase hinputs
    have hstep : step s = runPhased cmd arg { quiet s with inputs := rest } := step_of_input hphase hinputs
    exact ⟨fun _ hdecode => hstep.trans (runPhased_of_decode_ok hdecode),
      fun _ hdecode => hstep.trans (runPhased_of_decode_error hdecode)⟩
  · intro s hphase hinputs
    refine ⟨by simp [State.cmdReady, hphase], _, step_of_no_reset hphase hinputs, rfl, ?_⟩
    have hresult := phaseResult_phaseStep (quiet s)
    generalize phaseStep (quiet s) = t at hresult ⊢
    cases hresult with
    | going h =>
      rw [h.frame]
      exact ⟨rfl, rfl, rfl, rfl, rfl, rfl, rfl, rfl, fun hvalid => absurd hvalid Bool.false_ne_true⟩
    | last h data =>
      rw [h.frame]
      exact ⟨rfl, rfl, rfl, rfl, rfl, rfl, rfl, rfl, fun _ => ⟨rfl, rfl, cmdReady_of_rspValid rfl⟩⟩

/-! ### The byte commands of the single-wire bus (R63, R154, R155) -/

/-- Line 0 exists in every legal configuration (R6). -/
theorem lineOw_exists {s : State} (hv : s.cfg.valid) (hlen : s.lines.length = s.cfg.numLines) : 0 < s.lines.length :=
  hlen ▸ Nat.lt_of_lt_of_le (by decide) hv.2.1.1

/-- A byte is eight bits on the wire (R63). -/
theorem length_owBits (byte : Byte) : (Spec.owBits byte).length = 8 := by simp [Spec.owBits]

/-- OW_WRITE_BYTE: eight write slots that take no answer (R154). -/
theorem exec_owWriteByte_done (byte : Byte) {s : State} (hv : s.cfg.valid) (h : 0 < s.lines.length) :
    exec (.owWriteByte byte) s = .next (respondOk 0 (owDone s (8 * s.cfg.tWslot)
      ((Spec.owBits byte).flatMap (Spec.writeSlotEvents s.cfg)) 0)) := by
  have hbits : Spec.owBits byte ≠ [] := List.ne_nil_of_length_pos (by rw [length_owBits]; decide)
  rw [exec_owWriteByte, bitsLsbFirst_eq, writeSlots_done _ s hv h hbits, length_owBits]

/-- Settles O24: eight slots in a row are one `owDone`. -/
theorem owWriteByteSendsEightSlots : Obligations.OwWriteByteSendsEightSlots := by
  intro s byte hv hlen
  have h := lineOw_exists hv hlen
  refine ⟨_, exec_owWriteByte_done byte hv h, okResponse_respondOk 0 _, rfl, rfl, ?line, ?others, ?frame⟩
  case line => rw [respondOk_line, owDone_line _ _ _ _ h, if_pos rfl]
  case others =>
    intro k hk
    rw [respondOk_line, owDone_line _ _ _ _ h, if_neg hk]
  case frame => simp [respondOk, respond, owDone]

/-- Settles O25: bit `i` of the byte is the level of slot `i`, and the response holds no other bit. -/
theorem owReadByteReadsEightSlots : Obligations.OwReadByteReadsEightSlots := by
  intro s hv hlen
  have h := lineOw_exists hv hlen
  obtain ⟨as, v, hslots, hcount, hanswers, hbits⟩ := readSlots_done 8 0 0 s hv h (by decide) (by decide)
  have hexec := exec_owReadByte s
  rw [hslots] at hexec
  refine ⟨_, as, _, hexec, hcount, hanswers, okResponse_respondOk _ _, ?byte, ?bits, rfl, rfl, ?line, ?others, rfl, rfl⟩
  case byte =>
    have hv8 : v.toNat < 256 := v.isLt
    simpa [zextByte] using Nat.lt_of_le_of_lt (Nat.mod_le _ _) hv8
  case bits =>
    intro i hi
    have hbit : (zextByte v).getLsbD i = v.getLsbD i := by
      simp [zextByte, show i < 32 by omega]
    rw [hbit, hbits, if_pos ⟨Nat.zero_le i, by omega⟩, Nat.sub_zero]
  case line => rw [respondOk_line, owDone_line _ _ _ _ h, if_pos rfl]
  case others =>
    intro k hk
    rw [respondOk_line, owDone_line _ _ _ _ h, if_neg hk]

/-! ### The table of writes (R77) -/

/-- What O52 says of a state a command leaves, but for the sequencer and the number of lines: those the command's run keeps
(`answers_exec`). -/
structure OwnWrites (i : Instr) (s t : State) : Prop where
  cfg : t.cfg = s.cfg
  inputs : t.inputs = s.inputs
  cmd : t.port.cmd = s.port.cmd
  arg : t.port.arg = s.port.arg
  lines : ∀ k, Spec.writesLine i k = false → t.line k = s.line k
  latch : i = .pxWrite → (t.line 1).dir = (s.line 1).dir ∧ (t.line 1).pull = (s.line 1).pull
  time : Spec.writesTime i = false → t.time = s.time
  log : Spec.writesLog i = false → t.log = s.log
  px : i.opcode ∉ [Opcode.pxInit, Opcode.pxSet, Opcode.pxFill] → t.px = s.px
  ma : i.opcode ∉ [Opcode.maInit, Opcode.maAdd, Opcode.maReset] → t.ma = s.ma
  db : i.opcode ∉ [Opcode.dbInit, Opcode.dbRead] → t.db = s.db
  tmStart : i ≠ .tmStart → t.tmStart = s.tmStart

/-- The command answers, and writes what R77 gives it. -/
def OwnAnswer (i : Instr) (s : State) (o : Host.Outcome State Fault Refusal) : Prop :=
  ∃ t, o = .next t ∧ OwnWrites i s t

section OwnWrites
variable {i : Instr} {s t : State} {l : Nat}

/-- Each branch of a command answers for itself. -/
theorem ownAnswer_ite {p : Prop} [Decidable p] {a b : Host.Outcome State Fault Refusal} (ha : OwnAnswer i s a)
    (hb : OwnAnswer i s b) : OwnAnswer i s (if p then a else b) := by
  split
  · exact ha
  · exact hb

/-- Writing nothing is within what any command may write. -/
theorem OwnWrites.start (i : Instr) (s : State) : OwnWrites i s s where
  cfg := rfl
  inputs := rfl
  cmd := rfl
  arg := rfl
  lines _ _ := rfl
  latch _ := ⟨rfl, rfl⟩
  time _ := rfl
  log _ := rfl
  px _ := rfl
  ma _ := rfl
  db _ := rfl
  tmStart _ := rfl

/-- So is a response: the port keeps its words. -/
theorem OwnWrites.respond (h : OwnWrites i s t) (st : Status) (data : Word) : OwnWrites i s (respond st data t) :=
  { h with }

theorem OwnWrites.answer (h : OwnWrites i s t) (data : Word) : OwnAnswer i s (.next (respondOk data t)) :=
  ⟨_, rfl, h.respond .ok data⟩

theorem ownAnswer_respondOk (data : Word) : OwnAnswer i s (.next (respondOk data s)) := (OwnWrites.start i s).answer data

theorem ownAnswer_raise (e : Exception) : OwnAnswer i s (.next (raise e s)) :=
  ⟨_, rfl, (OwnWrites.start i s).respond e.status 0⟩

/-- PX_INIT, PX_SET and PX_FILL may write the pixel memory. -/
theorem ownWrites_px (hi : i.opcode ∈ [Opcode.pxInit, Opcode.pxSet, Opcode.pxFill]) (px : PixelBuffer) :
    OwnWrites i s { s with px := px } :=
  { OwnWrites.start i s with px := fun hn => absurd hi hn }

/-- MA_INIT, MA_ADD and MA_RESET may write the sample memory. -/
theorem ownWrites_ma (hi : i.opcode ∈ [Opcode.maInit, Opcode.maAdd, Opcode.maReset]) (ma : MovingAverage) :
    OwnWrites i s { s with ma := ma } :=
  { OwnWrites.start i s with ma := fun hn => absurd hi hn }

/-- DB_INIT and DB_READ may write the debouncer. -/
theorem ownWrites_db (hi : i.opcode ∈ [Opcode.dbInit, Opcode.dbRead]) (db : Debouncer) :
    OwnWrites i s { s with db := db } :=
  { OwnWrites.start i s with db := fun hn => absurd hi hn }

/-- TM_START may write the start timestamp. -/
theorem ownWrites_tmStart (start : Word) : OwnWrites .tmStart s { s with tmStart := start } :=
  { OwnWrites.start .tmStart s with tmStart := fun hn => absurd rfl hn }

/-- Work on line `l` that stays within what the table says of that line, the time and the log. -/
theorem OnLine.ownWrites (h : OnLine l s t) (hline : Spec.writesLine i l = false → t.line l = s.line l)
    (hlatch : i = .pxWrite → (t.line 1).dir = (s.line 1).dir ∧ (t.line 1).pull = (s.line 1).pull)
    (htime : Spec.writesTime i = false → t.time = s.time) (hlog : Spec.writesLog i = false → t.log = s.log) :
    OwnWrites i s t where
  cfg := h.cfg
  inputs := h.inputs
  cmd := by rw [h.port]
  arg := by rw [h.port]
  lines k hk := by
    by_cases hkl : k = l
    · subst hkl
      exact hline hk
    · exact h.others k hkl
  latch := hlatch
  time := htime
  log := hlog
  px _ := h.px
  ma _ := h.ma
  db _ := h.db
  tmStart _ := h.tmStart

/-- A single-wire command may write line 0, the time and the log. -/
theorem OnLine.ownWrites_oneWire (hi : Spec.isOneWire i = true) (h : OnLine 0 s t) : OwnWrites i s t := by
  cases i with
  | owReset | owWriteBit | owReadBit | owWriteByte | owReadByte => exact h.ownWrites nofun nofun nofun nofun
  | _ => exact absurd hi Bool.false_ne_true

/-- A DL command that writes its line logs that, and takes no time (R130 to R132). -/
theorem OnLine.ownWrites_dl (h : OnLine l s t) (hline : Spec.writesLine i l = true) (hi : i ≠ .pxWrite)
    (htime : t.time = s.time) (hlog : Spec.writesLog i = true) : OwnWrites i s t :=
  h.ownWrites (fun hn => absurd hline (by simp [hn])) (fun hpx => absurd hpx hi) (fun _ => htime)
    fun hn => absurd hlog (by simp [hn])

/-! The single-wire commands as work on line 0. -/

theorem OnLine.writeSlot (h : OnLine 0 s t) (bit : Bit) : OnLine 0 s (writeSlot bit t) :=
  (((h.drive _ _).wait _).release).wait _

theorem OnLine.writeSlots (bits : List Bit) (h : OnLine 0 s t) : OnLine 0 s (writeSlots bits t) := by
  induction bits generalizing t with
  | nil => exact h
  | cons b bits ih => exact ih (h.writeSlot b)

theorem OnLine.readSlot (h : OnLine 0 s t) : OnLine 0 s (readSlot t).2 :=
  (((((h.drive _ _).wait _).release).wait _).sample _).wait _

theorem OnLine.readSlots (k j : Nat) (r : Byte) (h : OnLine 0 s t) : OnLine 0 s (readSlots k j r t).2 := by
  induction k generalizing j r t with
  | zero => exact h
  | succ k ih => exact ih _ _ h.readSlot

theorem OnLine.resetLead (h : OnLine 0 s t) : OnLine 0 s (resetLead t) :=
  ((((h.drive _ _).wait _).release).setPull _).wait _

/-- A frame is work on line 1. -/
theorem onLine_pxDone (es : List Event) (h : 1 < s.lines.length) : OnLine 1 s (pxDone s es) :=
  ⟨rfl, fun k hk => by rw [pxDone_line s es h, if_neg hk]⟩

end OwnWrites

/-- A line that is an output exists. -/
theorem lt_of_dir_output {s : State} {l : Nat} (h : (s.line l).dir = .output) : l < s.lines.length := by
  by_contra hge
  rw [line_of_length_le (Nat.le_of_not_lt hge)] at h
  exact absurd h (by decide)

theorem exec_dlWrite_ownAnswer (line : Byte) (level : Bit) (s : State) :
    OwnAnswer (.dlWrite line level) s (exec (.dlWrite line level) s) := by
  refine ownAnswer_ite ?_ (ownAnswer_raise _)
  split
  · exact ownAnswer_raise _
  · refine OwnWrites.answer ?_ 0
    exact ((OnLine.start line.toNat s).setLineAnnounce _).ownWrites_dl (beq_self_eq_true _) nofun rfl rfl

/-- DL_READ writes no line: its sample is logged, and answered by the environment. -/
theorem exec_dlRead_ownAnswer (line : Byte) (s : State) : OwnAnswer (.dlRead line) s (exec (.dlRead line) s) := by
  refine ownAnswer_ite ?_ (ownAnswer_raise _)
  split
  · exact ownAnswer_raise _
  · refine OwnWrites.answer (t := (sample line.toNat s).2) ?_ _
    refine ((OnLine.start line.toNat s).sample line.toNat).ownWrites ?line nofun ?time nofun
    case line => exact fun _ => by rw [sample_eq]; rfl
    case time => exact fun _ => by rw [sample_eq]

/-- PX_WRITE keeps the direction of its line, which was an output already, and the pull (R208, R209). -/
theorem exec_pxWrite_ownAnswer (s : State) : OwnAnswer .pxWrite s (exec .pxWrite s) := by
  cases hdir : (s.line 1).dir with
  | input =>
    simp only [exec, execPxWrite, Config.linePx, hdir]
    exact ownAnswer_raise _
  | output =>
    have h : 1 < s.lines.length := lt_of_dir_output hdir
    rw [exec_pxWrite_of_output hdir h]
    refine OwnWrites.answer (i := .pxWrite) ?_ 0
    refine (onLine_pxDone _ h).ownWrites nofun (fun _ => ?_) nofun nofun
    rw [pxDone_line s _ h, if_pos rfl, hdir]
    exact ⟨rfl, rfl⟩

/-- Every command answers and writes what its row of the table gives it. -/
theorem exec_ownAnswer (i : Instr) (s : State) : OwnAnswer i s (exec i s) := by
  have onOw : OnLine 0 s s := .start 0 s
  cases i with
  | nowMs | nowUs | elapsedMs | elapsedUs | tmElapsed => exact ownAnswer_respondOk _
  | svAngle | svPulse | maAvg => exact ownAnswer_respondOk _
  | tmStart => exact (ownWrites_tmStart _).answer 0
  | dlSetDir line dir =>
    refine ownAnswer_ite (OwnWrites.answer ?_ 0) (ownAnswer_raise _)
    exact ((OnLine.start line.toNat s).setLineAnnounce _).ownWrites_dl (beq_self_eq_true _) nofun rfl rfl
  | dlSetPull line pull =>
    refine ownAnswer_ite (OwnWrites.answer ?_ 0) (ownAnswer_raise _)
    exact ((OnLine.start line.toNat s).setPull pull).ownWrites_dl (beq_self_eq_true _) nofun rfl rfl
  | dlWrite line level => exact exec_dlWrite_ownAnswer line level s
  | dlRead line => exact exec_dlRead_ownAnswer line s
  | owReset => exact (((onOw.resetLead.sample _).wait _).ownWrites_oneWire rfl).answer _
  | owWriteBit bit => exact ((onOw.writeSlot bit).ownWrites_oneWire rfl).answer 0
  | owReadBit => exact (onOw.readSlot.ownWrites_oneWire rfl).answer _
  | owWriteByte byte =>
    rw [exec_owWriteByte]
    exact ((onOw.writeSlots _).ownWrites_oneWire rfl).answer 0
  | owReadByte =>
    rw [exec_owReadByte]
    exact ((onOw.readSlots 8 0 0).ownWrites_oneWire rfl).answer _
  | pxInit n => exact ownAnswer_ite ((ownWrites_px (by simp [Instr.opcode]) _).answer 0) (ownAnswer_raise _)
  | pxSet index r g b =>
    exact ownAnswer_ite ((ownWrites_px (by simp [Instr.opcode]) _).answer 0) (ownAnswer_respondOk 0)
  | pxFill r g b => exact (ownWrites_px (by simp [Instr.opcode]) _).answer 0
  | pxWrite => exact exec_pxWrite_ownAnswer s
  | dbInit level thr now => exact (ownWrites_db (by simp [Instr.opcode]) _).answer 0
  | dbRead level now => exact (ownWrites_db (by simp [Instr.opcode]) _).answer _
  | maInit n => exact ownAnswer_ite ((ownWrites_ma (by simp [Instr.opcode]) _).answer 0) (ownAnswer_raise _)
  | maAdd x => exact (ownWrites_ma (by simp [Instr.opcode]) _).answer 0
  | maReset => exact (ownWrites_ma (by simp [Instr.opcode]) _).answer 0

/-- Settles O52: the row of each command, with the sequencer and the number of lines from the command's run. -/
theorem unitsWriteOnlyTheirOwnRegisters : Obligations.UnitsWriteOnlyTheirOwnRegisters := by
  intro i s
  obtain ⟨t, ht, own⟩ := exec_ownAnswer i s
  obtain ⟨u, hu, hrun⟩ := answers_exec (released := False) (sequenced := False) i s
  obtain rfl : u = t := by simpa [hu] using ht
  obtain ⟨_, hgrows⟩ := hrun.grows
  exact ⟨u, ht, own.cfg, own.inputs, hrun.seq_eq, own.cmd, own.arg, hgrows.lineCount, own.lines, own.latch, own.time,
    own.log, own.px, own.ma, own.db, own.tmStart⟩

end Sys2Proof.Machine
end

section
/-! SUPPORT. The family 30_encoding: the decoder by its checks, both halves of the round trip, illegal words as numbers,
placed commands, the byte commands as runs of bit commands, PX_INIT, MA_INIT and MA_RESET. -/

namespace Sys2Proof

/-! ### The decoder by its checks (R89, R90) -/

/-- A number that names an opcode is that opcode's number (R86). -/
theorem code_of_ofCode {c : Byte} {op : Opcode} (h : Opcode.ofCode c = some op) : op.code = c := by
  simpa using List.find?_some h

/-- A check passes exactly when its condition holds, and what comes after it decides. -/
theorem ite_eq_ok_iff {p : Prop} [Decidable p] {r : Except DecodeError Instr} {e₀ : DecodeError} {i : Instr} :
    (if p then r else .error e₀) = .ok i ↔ p ∧ r = .ok i := by
  by_cases hp : p
  · simp [hp]
  · simp [hp]

/-- A word is refused by the check, or by what comes after it. -/
theorem ite_eq_error_iff {p : Prop} [Decidable p] {r : Except DecodeError Instr} {e₀ : DecodeError} :
    (∃ e, (if p then r else .error e₀) = .error e) ↔ ¬ p ∨ ∃ e, r = .error e := by
  by_cases hp : p
  · simp [hp]
  · simp [hp]

theorem decode_of_unknown {cmd : Word} (h : Opcode.ofCode (opField cmd) = none) (P : Config.Params) (arg : Word) :
    decode P cmd arg = .error .unknownOpcode := by
  simp only [decode, h]

/-- Under a known opcode the must-be-zero bits are checked, then the operands. -/
theorem decode_of_known {cmd : Word} {op : Opcode} (h : Opcode.ofCode (opField cmd) = some op) (P : Config.Params)
    (arg : Word) :
    decode P cmd arg = if cmd &&& op.format.mbz = 0 then readOperands P op cmd arg else .error .mustBeZero := by
  simp only [decode, h]

/-- A legal word passed the first two checks, and its operands were read. -/
theorem decode_eq_ok {P : Config.Params} {cmd arg : Word} {i : Instr} (h : decode P cmd arg = .ok i) :
    ∃ op, Opcode.ofCode (opField cmd) = some op ∧ cmd &&& op.format.mbz = 0 ∧
      readOperands P op cmd arg = .ok i := by
  cases hop : Opcode.ofCode (opField cmd) with
  | none =>
    rw [decode_of_unknown hop] at h
    exact absurd h nofun
  | some op =>
    rw [decode_of_known hop, ite_eq_ok_iff] at h
    exact ⟨op, rfl, h⟩

/-- A format L word is legal when its line exists and its operand code names something. -/
theorem readLine_eq_ok {P : Config.Params} {cmd : Word} {operand : Option Instr} {i : Instr} :
    readLine P cmd operand = .ok i ↔ lineLegal P (gField cmd) = true ∧ operand = some i := by
  unfold readLine
  rw [ite_eq_ok_iff]
  cases operand with
  | none => simp
  | some j => simp

/-- The same where the operand code is read by a table of R87 b. -/
theorem readLine_map_eq_ok {α : Type} {P : Config.Params} {cmd : Word} {code : Option α} {f : α → Instr}
    {i : Instr} (h : readLine P cmd (code.map f) = .ok i) :
    lineLegal P (gField cmd) = true ∧ ∃ x, code = some x ∧ f x = i := by
  rwa [readLine_eq_ok, Option.map_eq_some_iff] at h

theorem readLine_eq_error {P : Config.Params} {cmd : Word} {operand : Option Instr} :
    (∃ e, readLine P cmd operand = .error e) ↔ P.numLines ≤ (gField cmd).toNat ∨ operand = none := by
  unfold readLine
  rw [ite_eq_error_iff]
  cases operand with
  | none => simp [lineLegal]
  | some i => simp [lineLegal]

/-! ### From a command to its word and back (R82, R83, R87) -/

/-- The encoder's word is one of its format, whatever the command: the laws of the single commands together. -/
theorem encodedWord : ∀ i : Instr, Laws.EncodedWord.Statement i
  | .nowMs => Laws.EncodedWord.nowMs
  | .nowUs => Laws.EncodedWord.nowUs
  | .elapsedMs since => Laws.EncodedWord.elapsedMs since
  | .elapsedUs since => Laws.EncodedWord.elapsedUs since
  | .tmStart => Laws.EncodedWord.tmStart
  | .tmElapsed => Laws.EncodedWord.tmElapsed
  | .dlSetDir line dir => Laws.EncodedWord.dlSetDir line dir
  | .dlSetPull line pull => Laws.EncodedWord.dlSetPull line pull
  | .dlWrite line level => Laws.EncodedWord.dlWrite line level
  | .dlRead line => Laws.EncodedWord.dlRead line
  | .owReset => Laws.EncodedWord.owReset
  | .owWriteBit bit => Laws.EncodedWord.owWriteBit bit
  | .owReadBit => Laws.EncodedWord.owReadBit
  | .owWriteByte byte => Laws.EncodedWord.owWriteByte byte
  | .owReadByte => Laws.EncodedWord.owReadByte
  | .pxInit n => Laws.EncodedWord.pxInit n
  | .pxSet index r g b => Laws.EncodedWord.pxSet index r g b
  | .pxFill r g b => Laws.EncodedWord.pxFill r g b
  | .pxWrite => Laws.EncodedWord.pxWrite
  | .svAngle x => Laws.EncodedWord.svAngle x
  | .svPulse x => Laws.EncodedWord.svPulse x
  | .dbInit level thr now => Laws.EncodedWord.dbInit level thr now
  | .dbRead level now => Laws.EncodedWord.dbRead level now
  | .maInit n => Laws.EncodedWord.maInit n
  | .maAdd x => Laws.EncodedWord.maAdd x
  | .maAvg => Laws.EncodedWord.maAvg
  | .maReset => Laws.EncodedWord.maReset

/-- The operands of a well-formed command are read back from the encoder's two words. -/
theorem readOperands_encode {P : Config.Params} {i : Instr} (h : i.wellFormed P = true) :
    readOperands P i.opcode (encode i).1 (encode i).2 = .ok i := by
  cases i with
  | dlSetDir | dlSetPull | dlWrite | dlRead =>
    have hline : lineLegal P _ = true := h
    simp [encode, Instr.opcode, Instr.fieldA, readOperands, readLine, hline]
  | pxInit | maInit =>
    simp only [Instr.wellFormed] at h
    simp [encode, Instr.opcode, Instr.fieldA, readOperands, h]
  | _ => simp [encode, Instr.opcode, Instr.fieldA, Instr.operandWord, readOperands]

/-- Settles O2: the encoder's word passes the first two checks, and its operands are read back. -/
theorem encodedCommandsDecodeBack : Obligations.EncodedCommandsDecodeBack := by
  intro P i hwf
  obtain ⟨hop, hmbz⟩ := encodedWord i
  have hknown : Opcode.ofCode (opField (encode i).1) = some i.opcode := by rw [hop, ofCode_code]
  rw [decode_of_known hknown, if_pos hmbz, readOperands_encode hwf]

/-- Settles O1: the words are those of R83, R86 and R87; the decoder is evaluated on each. -/
theorem decodeReadsWordsOfTheSpec : Obligations.DecodeReadsWordsOfTheSpec := by
  unfold Obligations.DecodeReadsWordsOfTheSpec
  decide

/-! ### The word as numbers (R82, R83, R87) -/

theorem opField_toNat (cmd : Word) : (opField cmd).toNat = cmd.toNat / 2 ^ 24 := by
  have := cmd.isLt
  simp only [opField, BitVec.extractLsb'_toNat, Nat.shiftRight_eq_div_pow]
  omega

theorem rField_toNat (cmd : Word) : (rField cmd).toNat = cmd.toNat / 2 ^ 16 % 2 ^ 8 := by
  simp only [rField, BitVec.extractLsb'_toNat, Nat.shiftRight_eq_div_pow]

theorem gField_toNat (cmd : Word) : (gField cmd).toNat = cmd.toNat / 2 ^ 8 % 2 ^ 8 := by
  simp only [gField, BitVec.extractLsb'_toNat, Nat.shiftRight_eq_div_pow]

theorem bField_toNat (cmd : Word) : (bField cmd).toNat = cmd.toNat % 2 ^ 8 := by
  simp only [bField, BitVec.extractLsb'_toNat, Nat.shiftRight_zero]

theorem nField_toNat (cmd : Word) : (nField cmd).toNat = cmd.toNat % 2 ^ 16 := by
  simp only [nField, BitVec.extractLsb'_toNat, Nat.shiftRight_zero]

theorem bitField_toNat (cmd : Word) : (bitField cmd).toNat = cmd.toNat % 2 := by
  simp only [bitField, BitVec.extractLsb'_toNat, Nat.shiftRight_zero, Nat.pow_one]

theorem levelField_toNat (cmd : Word) : (levelField cmd).toNat = cmd.toNat / 2 ^ 23 % 2 := by
  simp only [levelField, BitVec.extractLsb'_toNat, Nat.shiftRight_eq_div_pow, Nat.pow_one]

theorem thrField_toNat (cmd : Word) : (thrField cmd).toNat = cmd.toNat % 2 ^ 23 := by
  simp only [thrField, BitVec.extractLsb'_toNat, Nat.shiftRight_zero]

/-- A field above the bits of another adds to it. -/
theorem toNat_shiftLeft_or {w : Nat} {x y : BitVec w} {k : Nat} (hx : x.toNat * 2 ^ k < 2 ^ w) (hy : y.toNat < 2 ^ k) :
    (x <<< k ||| y).toNat = x.toNat * 2 ^ k + y.toNat := by
  rw [BitVec.toNat_or, BitVec.toNat_shiftLeft, Nat.shiftLeft_eq, Nat.mod_eq_of_lt hx, Nat.mul_comm,
    Nat.two_pow_add_eq_or_of_lt hy]

theorem packWord_toNat (op : Byte) (a : BitVec 24) : (packWord op a).toNat = op.toNat * 2 ^ 24 + a.toNat := by
  have := op.isLt
  have := a.isLt
  have hop : (op.setWidth 32).toNat = op.toNat := BitVec.toNat_setWidth_of_le (by decide)
  have ha : (a.setWidth 32).toNat = a.toNat := BitVec.toNat_setWidth_of_le (by decide)
  rw [packWord, toNat_shiftLeft_or (by omega) (by omega), hop, ha]

theorem packBytes_toNat (hi mid lo : Byte) :
    (packBytes hi mid lo).toNat = hi.toNat * 2 ^ 16 + mid.toNat * 2 ^ 8 + lo.toNat := by
  have := hi.isLt
  have := mid.isLt
  have := lo.isLt
  have hw (b : Byte) : (b.setWidth 24).toNat = b.toNat := BitVec.toNat_setWidth_of_le (by decide)
  have hlow : (mid.setWidth 24 <<< 8 ||| lo.setWidth 24).toNat = mid.toNat * 2 ^ 8 + lo.toNat := by
    rw [toNat_shiftLeft_or (by rw [hw]; omega) (by rw [hw]; omega), hw, hw]
  rw [packBytes, BitVec.or_assoc, toNat_shiftLeft_or (by rw [hw]; omega) (by omega), hlow, hw, Nat.add_assoc]

theorem packLevel_toNat (level : Bit) (thr : BitVec 23) :
    (packLevel level thr).toNat = level.toNat * 2 ^ 23 + thr.toNat := by
  have := level.isLt
  have := thr.isLt
  have hl : (level.setWidth 24).toNat = level.toNat := BitVec.toNat_setWidth_of_le (by decide)
  have ht : (thr.setWidth 24).toNat = thr.toNat := BitVec.toNat_setWidth_of_le (by decide)
  rw [packLevel, toNat_shiftLeft_or (by omega) (by omega), hl, ht]

/-! ### Must-be-zero bits as numbers (R83, R88 item 2) -/

/-- The must-be-zero bits of the format are 0 in the field `a`, as a bound or a remainder of the number. -/
def Format.fits : Format → Nat → Prop
  | .fZ, a | .fT, a | .fS, a => a = 0
  | .fL, a | .fN, a => a < 2 ^ 16
  | .fB1, a => a < 2
  | .fB8, a => a < 2 ^ 8
  | .fC, _ | .fCI, _ | .fDI, _ => True
  | .fDR, a => a % 2 ^ 23 = 0

/-- A run of `len` ones from bit `lo` up cuts one field out of a number. -/
theorem and_ones (n lo len : Nat) : n &&& (2 ^ len - 1) * 2 ^ lo = n / 2 ^ lo % 2 ^ len * 2 ^ lo := by
  apply Nat.eq_of_testBit_eq
  intro j
  rw [Nat.testBit_and, Nat.testBit_mul_two_pow, Nat.testBit_mul_two_pow, Nat.testBit_two_pow_sub_one,
    Nat.testBit_mod_two_pow, Nat.testBit_div_two_pow]
  by_cases h : lo ≤ j
  · simp [h, Bool.and_comm]
  · simp [h]

theorem and_ones_eq_zero_iff {cmd mask : Word} (lo len : Nat) (hmask : mask.toNat = (2 ^ len - 1) * 2 ^ lo) :
    cmd &&& mask = 0 ↔ cmd.toNat / 2 ^ lo % 2 ^ len = 0 := by
  rw [← BitVec.toNat_inj, BitVec.toNat_and, hmask, and_ones]
  exact Nat.mul_eq_zero.trans (or_iff_left (Nat.two_pow_pos lo).ne')

/-- The check of the must-be-zero bits as a check of numbers: every mask of R83 is one run of ones. -/
theorem and_mbz_eq_zero_iff (f : Format) (cmd : Word) : cmd &&& f.mbz = 0 ↔ f.fits (cmd.toNat % 2 ^ 24) := by
  cases f with
  | fZ | fT | fS => rw [Format.mbz, and_ones_eq_zero_iff 0 24 (by decide), Format.fits]; omega
  | fL | fN => rw [Format.mbz, and_ones_eq_zero_iff 16 8 (by decide), Format.fits]; omega
  | fB1 => rw [Format.mbz, and_ones_eq_zero_iff 1 23 (by decide), Format.fits]; omega
  | fB8 => rw [Format.mbz, and_ones_eq_zero_iff 8 16 (by decide), Format.fits]; omega
  | fDR => rw [Format.mbz, and_ones_eq_zero_iff 0 23 (by decide), Format.fits]; omega
  | fC | fCI | fDI => simp [Format.fits, Format.mbz]

/-! ### From a legal word back to it (R82, R83, R88) -/

theorem dir_code_of_ofCode {v : Byte} {d : Dir} (h : Dir.ofCode v = some d) : d.code = v := by
  unfold Dir.ofCode at h
  split_ifs at h <;> cases h <;> exact Eq.symm ‹_›

theorem pull_code_of_ofCode {v : Byte} {p : Pull} (h : Pull.ofCode v = some p) : p.code = v := by
  unfold Pull.ofCode at h
  split_ifs at h <;> cases h <;> exact Eq.symm ‹_›

theorem setWidth_of_levelOfCode {v : Byte} {b : Bit} (h : levelOfCode v = some b) : b.setWidth 8 = v := by
  unfold levelOfCode at h
  split_ifs at h <;> cases h <;> exact Eq.symm ‹_›

/-- The three bytes of a word's field `a` make it up. -/
theorem packBytes_fields (cmd : Word) :
    (packBytes (rField cmd) (gField cmd) (bField cmd)).toNat = cmd.toNat % 2 ^ 24 := by
  rw [packBytes_toNat, rField_toNat, gField_toNat, bField_toNat]
  omega

/-- Two bytes make it up where the format leaves no more. -/
theorem packBytes_line {cmd : Word} {v : Byte} (hv : v = bField cmd) (h : cmd.toNat % 2 ^ 24 < 2 ^ 16) :
    (packBytes 0 (gField cmd) v).toNat = cmd.toNat % 2 ^ 24 := by
  have h0 : (0 : Byte).toNat = 0 := rfl
  rw [packBytes_toNat, gField_toNat, hv, bField_toNat, h0]
  omega

theorem packBytes_byte {cmd : Word} (h : cmd.toNat % 2 ^ 24 < 2 ^ 8) :
    (packBytes 0 0 (bField cmd)).toNat = cmd.toNat % 2 ^ 24 := by
  have h0 : (0 : Byte).toNat = 0 := rfl
  rw [packBytes_toNat, bField_toNat, h0]
  omega

theorem setWidth_nField {cmd : Word} (h : cmd.toNat % 2 ^ 24 < 2 ^ 16) :
    ((nField cmd).setWidth 24).toNat = cmd.toNat % 2 ^ 24 := by
  rw [BitVec.toNat_setWidth_of_le (by decide), nField_toNat]
  omega

theorem setWidth_bitField {cmd : Word} (h : cmd.toNat % 2 ^ 24 < 2) :
    ((bitField cmd).setWidth 24).toNat = cmd.toNat % 2 ^ 24 := by
  rw [BitVec.toNat_setWidth_of_le (by decide), bitField_toNat]
  omega

theorem packLevel_fields (cmd : Word) : (packLevel (levelField cmd) (thrField cmd)).toNat = cmd.toNat % 2 ^ 24 := by
  rw [packLevel_toNat, levelField_toNat, thrField_toNat]
  omega

theorem packLevel_level {cmd : Word} (h : cmd.toNat % 2 ^ 24 % 2 ^ 23 = 0) :
    (packLevel (levelField cmd) 0).toNat = cmd.toNat % 2 ^ 24 := by
  have h0 : (0 : BitVec 23).toNat = 0 := rfl
  rw [packLevel_toNat, levelField_toNat, h0]
  omega

/-- The command `i` holds all that the word says under the opcode `op`. -/
structure ReadsBack (P : Config.Params) (op : Opcode) (cmd arg : Word) (i : Instr) : Prop where
  opcode : i.opcode = op
  wellFormed : i.wellFormed P = true
  operandWord : i.operandWord = if op.format.readsArg then arg else 0
  fieldA : op.format.fits (cmd.toNat % 2 ^ 24) → i.fieldA.toNat = cmd.toNat % 2 ^ 24

/-- Operands that are read lose nothing of the word. -/
theorem readsBack_of_readOperands {P : Config.Params} {op : Opcode} {cmd arg : Word} {i : Instr}
    (h : readOperands P op cmd arg = .ok i) : ReadsBack P op cmd arg i := by
  cases op with
  | nowMs | nowUs | elapsedMs | elapsedUs | tmStart | tmElapsed | owReset | owReadBit | owReadByte | pxWrite | svAngle
  | svPulse | maAdd | maAvg | maReset =>
    cases h
    exact ⟨rfl, rfl, rfl, Eq.symm⟩
  | dlSetDir =>
    obtain ⟨hline, dir, hdir, rfl⟩ := readLine_map_eq_ok h
    exact ⟨rfl, hline, rfl, packBytes_line (dir_code_of_ofCode hdir)⟩
  | dlSetPull =>
    obtain ⟨hline, pull, hpull, rfl⟩ := readLine_map_eq_ok h
    exact ⟨rfl, hline, rfl, packBytes_line (pull_code_of_ofCode hpull)⟩
  | dlWrite =>
    obtain ⟨hline, level, hlevel, rfl⟩ := readLine_map_eq_ok h
    exact ⟨rfl, hline, rfl, packBytes_line (setWidth_of_levelOfCode hlevel)⟩
  | dlRead =>
    obtain ⟨hline, hoperand⟩ := readLine_eq_ok.1 h
    obtain ⟨hzero, hi⟩ := Option.ite_none_right_eq_some.1 hoperand
    cases hi
    exact ⟨rfl, hline, rfl, packBytes_line hzero.symm⟩
  | owWriteBit => cases h; exact ⟨rfl, rfl, rfl, setWidth_bitField⟩
  | owWriteByte => cases h; exact ⟨rfl, rfl, rfl, packBytes_byte⟩
  | pxInit | maInit =>
    obtain ⟨hsize, hi⟩ := ite_eq_ok_iff.1 h
    cases hi
    exact ⟨rfl, hsize, rfl, setWidth_nField⟩
  | pxSet | pxFill => cases h; exact ⟨rfl, rfl, rfl, fun _ => packBytes_fields cmd⟩
  | dbInit => cases h; exact ⟨rfl, rfl, rfl, fun _ => packLevel_fields cmd⟩
  | dbRead => cases h; exact ⟨rfl, rfl, rfl, packLevel_level⟩

/-- Settles O3: the word's opcode number and its field `a` are those of the command it decodes to. -/
theorem decodedWordsEncodeBack : Obligations.DecodedWordsEncodeBack := by
  intro P cmd arg i h
  obtain ⟨op, hop, hmbz, hread⟩ := decode_eq_ok h
  obtain ⟨rfl, hwf, harg, hfield⟩ := readsBack_of_readOperands hread
  refine ⟨hwf, BitVec.eq_of_toNat_eq ?_, harg⟩
  have ha : i.fieldA.toNat = cmd.toNat % 2 ^ 24 := hfield ((and_mbz_eq_zero_iff _ cmd).1 hmbz)
  rw [encode, packWord_toNat, code_of_ofCode hop, opField_toNat, ha]
  omega

/-! ### Illegal words (R88) -/

/-- The operand fields of the word are ones R88 items 3 to 5 refuse under this opcode, as numbers of the field `a`. -/
def Opcode.refuses (P : Config.Params) : Opcode → Nat → Prop
  | .dlSetDir, a => P.numLines ≤ a / 2 ^ 8 % 2 ^ 8 ∨ 2 ≤ a % 2 ^ 8
  | .dlSetPull, a => P.numLines ≤ a / 2 ^ 8 % 2 ^ 8 ∨ 3 ≤ a % 2 ^ 8
  | .dlWrite, a => P.numLines ≤ a / 2 ^ 8 % 2 ^ 8 ∨ 2 ≤ a % 2 ^ 8
  | .dlRead, a => P.numLines ≤ a / 2 ^ 8 % 2 ^ 8 ∨ a % 2 ^ 8 ≠ 0
  | .pxInit, a => P.pxMax < a % 2 ^ 16
  | .maInit, a => P.maMax < a % 2 ^ 16
  | .nowMs, _ | .nowUs, _ | .elapsedMs, _ | .elapsedUs, _ | .tmStart, _ | .tmElapsed, _ => False
  | .owReset, _ | .owWriteBit, _ | .owReadBit, _ | .owWriteByte, _ | .owReadByte, _ => False
  | .pxSet, _ | .pxFill, _ | .pxWrite, _ | .svAngle, _ | .svPulse, _ => False
  | .dbInit, _ | .dbRead, _ | .maAdd, _ | .maAvg, _ | .maReset, _ => False

/-- R88 item 1: the numbers that name no opcode. -/
def reservedCode (c : Nat) : Prop :=
  c ≤ 0x0F ∨ (0x16 ≤ c ∧ c ≤ 0x1F) ∨ (0x24 ≤ c ∧ c ≤ 0x2F) ∨ (0x35 ≤ c ∧ c ≤ 0x3F) ∨
    (0x44 ≤ c ∧ c ≤ 0x4F) ∨ (0x52 ≤ c ∧ c ≤ 0x5F) ∨ (0x62 ≤ c ∧ c ≤ 0x6F) ∨ 0x74 ≤ c

theorem not_reservedCode_code (op : Opcode) : ¬ reservedCode op.code.toNat := by
  unfold reservedCode
  cases op <;> decide

/-- The numbers outside the reserved ranges are the opcodes' own. -/
theorem exists_code_eq {c : Nat} (h : ¬ reservedCode c) : ∃ op : Opcode, op.code.toNat = c := by
  unfold reservedCode at h
  have hlt : c < 0x74 := by omega
  have hall : ∀ n < 0x74, ¬ reservedCode n → ∃ op ∈ Opcode.all, op.code.toNat = n := by
    unfold reservedCode
    decide
  obtain ⟨op, -, hop⟩ := hall c hlt h
  exact ⟨op, hop⟩

theorem ofCode_eq_none_iff (c : Byte) : Opcode.ofCode c = none ↔ reservedCode c.toNat := by
  constructor
  · intro hnone
    by_contra hc
    obtain ⟨op, hop⟩ := exists_code_eq hc
    rw [← BitVec.eq_of_toNat_eq hop, ofCode_code] at hnone
    exact absurd hnone nofun
  · intro hc
    cases hop : Opcode.ofCode c with
    | none => rfl
    | some op => exact absurd (code_of_ofCode hop ▸ hc) (not_reservedCode_code op)

theorem dir_ofCode_eq_none_iff (v : Byte) : Dir.ofCode v = none ↔ 2 ≤ v.toNat := by
  unfold Dir.ofCode
  split_ifs <;> simp <;> bv_omega

theorem pull_ofCode_eq_none_iff (v : Byte) : Pull.ofCode v = none ↔ 3 ≤ v.toNat := by
  unfold Pull.ofCode
  split_ifs <;> simp <;> bv_omega

theorem levelOfCode_eq_none_iff (v : Byte) : levelOfCode v = none ↔ 2 ≤ v.toNat := by
  unfold levelOfCode
  split_ifs <;> simp <;> bv_omega

/-- The operands are refused in exactly the cases of R88 items 3 to 5. -/
theorem readOperands_eq_error {P : Config.Params} {op : Opcode} {cmd arg : Word} :
    (∃ e, readOperands P op cmd arg = .error e) ↔ op.refuses P (cmd.toNat % 2 ^ 24) := by
  have hline : (gField cmd).toNat = cmd.toNat % 2 ^ 24 / 2 ^ 8 % 2 ^ 8 := by rw [gField_toNat]; omega
  have hval : (bField cmd).toNat = cmd.toNat % 2 ^ 24 % 2 ^ 8 := by rw [bField_toNat]; omega
  have hn : (nField cmd).toNat = cmd.toNat % 2 ^ 24 % 2 ^ 16 := by rw [nField_toNat]; omega
  cases op with
  | dlSetDir =>
    rw [readOperands, readLine_eq_error, Option.map_eq_none_iff, dir_ofCode_eq_none_iff, hline, hval, Opcode.refuses]
  | dlSetPull =>
    rw [readOperands, readLine_eq_error, Option.map_eq_none_iff, pull_ofCode_eq_none_iff, hline, hval, Opcode.refuses]
  | dlWrite =>
    rw [readOperands, readLine_eq_error, Option.map_eq_none_iff, levelOfCode_eq_none_iff, hline, hval, Opcode.refuses]
  | dlRead =>
    rw [readOperands, readLine_eq_error, hline, Opcode.refuses, ← hval]
    simp [← BitVec.toNat_inj]
  | pxInit =>
    rw [readOperands, ite_eq_error_iff, pxSizeLegal, hn, Opcode.refuses]
    simp
  | maInit =>
    rw [readOperands, ite_eq_error_iff, maSizeLegal, hn, Opcode.refuses]
    simp
  | _ => simp [readOperands, Opcode.refuses]

/-- Under a known opcode R88 asks for the must-be-zero bits of its format and for its operands in range. -/
theorem illegalWord_iff_of_code {P : Config.Params} {op : Opcode} {cmd : Word} (h : op.code = opField cmd) :
    Spec.illegalWord P cmd.toNat ↔ ¬ op.format.fits (cmd.toNat % 2 ^ 24) ∨ op.refuses P (cmd.toNat % 2 ^ 24) := by
  have hcode : cmd.toNat / 2 ^ 24 = op.code.toNat := by rw [h, opField_toNat]
  unfold Spec.illegalWord
  simp only [hcode]
  generalize cmd.toNat % 2 ^ 24 = a
  cases op with
  | owWriteBit =>
    simp [Opcode.code, Opcode.format, Format.fits, Opcode.refuses]
    omega
  | _ => simp [Opcode.code, Opcode.format, Format.fits, Opcode.refuses]

theorem illegalWord_of_reservedCode {P : Config.Params} {w : Nat} (h : reservedCode (w / 2 ^ 24)) :
    Spec.illegalWord P w := Or.inl h

/-- The decoder refuses the words of R88 and no others: item 1 where the opcode is unknown, items 2 to 5 where it is
known. -/
theorem illegalWord_iff_decode_error (P : Config.Params) (cmd arg : Word) :
    Spec.illegalWord P cmd.toNat ↔ ∃ e, decode P cmd arg = .error e := by
  cases hop : Opcode.ofCode (opField cmd) with
  | none =>
    have hreserved := (ofCode_eq_none_iff _).1 hop
    rw [opField_toNat] at hreserved
    exact iff_of_true (illegalWord_of_reservedCode hreserved) ⟨_, decode_of_unknown hop P arg⟩
  | some op =>
    rw [decode_of_known hop, ite_eq_error_iff, and_mbz_eq_zero_iff, readOperands_eq_error]
    exact illegalWord_iff_of_code (code_of_ofCode hop)

end Sys2Proof

namespace Sys2Proof.Machine

/-- Settles O4: a word is illegal by its opcode, which R88 reserves or which fixes the ranges, and then it raises
`ILLEGAL`. -/
theorem illegalWordsAreThoseOfTheSpec : Obligations.IllegalWordsAreThoseOfTheSpec := by
  refine ⟨illegalWord_iff_decode_error, fun s cmd arg hillegal => ?_⟩
  obtain ⟨e, hdecode⟩ := (illegalWord_iff_decode_error s.cfg cmd arg).1 hillegal
  exact runCommand_of_decode_error hdecode

/-! ### Placed commands (R80, R81) -/

/-- Settles O6: the placed command is the head of the script, and the sequencer is in `IDLE`. -/
theorem placedTableWordRunsNext : Obligations.PlacedTableWordRunsNext := by
  intro s nbits w i hdecode
  have hstep : step (s.withFetchWord nbits w) = runCommand (tableCmd nbits w) (tableArg nbits w)
      { quiet (s.withFetchWord nbits w) with inputs := s.inputs } :=
    step_of_input (inp := .command (tableCmd nbits w) (tableArg nbits w)) (rest := s.inputs) rfl rfl
  exact hstep.trans (runCommand_of_decode_ok hdecode)

/-! ### The byte commands as runs of bit commands (R92, R154, R155) -/

section Slots
variable (data : Word) (s : State)

/-! A slot neither reads nor writes the response of the command before. -/

theorem wait_respondOk (d : Nat) : wait d (respondOk data s) = respondOk data (wait d s) := by
  rw [wait_eq, wait_eq]
  rfl

theorem owDriveLow_respondOk : owDriveLow (respondOk data s) = respondOk data (owDriveLow s) := rfl

theorem owRelease_respondOk : owRelease (respondOk data s) = respondOk data (owRelease s) := rfl

theorem sample_respondOk (l : Nat) :
    sample l (respondOk data s) = ((sample l s).1, respondOk data (sample l s).2) := by
  rw [sample_eq, sample_eq]
  rfl

theorem writeSlot_respondOk (bit : Bit) : writeSlot bit (respondOk data s) = respondOk data (writeSlot bit s) := by
  simp only [writeSlot, owDriveLow_respondOk, owRelease_respondOk, wait_respondOk, respondOk_cfg]

theorem readSlot_respondOk : readSlot (respondOk data s) = ((readSlot s).1, respondOk data (readSlot s).2) := by
  simp only [readSlot, readLead, owDriveLow_respondOk, owRelease_respondOk, wait_respondOk, sample_respondOk,
    respondOk_cfg]

theorem writeSlots_respondOk (bits : List Bit) :
    writeSlots bits (respondOk data s) = respondOk data (writeSlots bits s) := by
  induction bits generalizing s with
  | nil => rfl
  | cons b bits ih => rw [writeSlots, writeSlot_respondOk, ih, writeSlots]

theorem readSlots_respondOk (k i : Nat) (r : Byte) :
    readSlots k i r (respondOk data s) = ((readSlots k i r s).1, respondOk data (readSlots k i r s).2) := by
  induction k generalizing i r s with
  | zero => rfl
  | succ k ih => simp only [readSlots, readSlot_respondOk, ih]

end Slots

/-- The last response is the one that stands. -/
theorem respondOk_respondOk (data old : Word) (s : State) : respondOk data (respondOk old s) = respondOk data s := rfl

/-- Two responses of one state differ in the port alone. -/
theorem respondOk_eq_with_port (data other : Word) (s : State) :
    respondOk data s = { respondOk other s with port := (respondOk data s).port } := rfl

/-- A run of OW_WRITE_BIT is its slots back to back, and one response. -/
theorem runAll_owWriteBit (bit : Bit) (bits : List Bit) (s : State) :
    Spec.runAll ((bit :: bits).map Instr.owWriteBit) s = some (respondOk 0 (writeSlots (bit :: bits) s)) := by
  induction bits generalizing bit s with
  | nil => rfl
  | cons next bits ih =>
    calc Spec.runAll ((bit :: next :: bits).map Instr.owWriteBit) s
        = Spec.runAll ((next :: bits).map Instr.owWriteBit) (respondOk 0 (writeSlot bit s)) := rfl
      _ = some (respondOk 0 (writeSlots (next :: bits) (respondOk 0 (writeSlot bit s)))) := ih next _
      _ = some (respondOk 0 (writeSlots (bit :: next :: bits) s)) := by
        rw [writeSlots_respondOk, respondOk_respondOk]
        rfl

/-- A run of OW_READ_BIT is its slots back to back, and some response; where the bits are collected does not matter. -/
theorem runAll_owReadBit (k i : Nat) (r : Byte) (s : State) :
    ∃ data, Spec.runAll (List.replicate (k + 1) Instr.owReadBit) s =
      some (respondOk data (readSlots (k + 1) i r s).2) := by
  induction k generalizing i r s with
  | zero => exact ⟨_, rfl⟩
  | succ k ih =>
    obtain ⟨data, hrun⟩ := ih (i + 1) (setByteBit r i (readSlot s).1)
      (respondOk (zextBit (readSlot s).1) (readSlot s).2)
    refine ⟨data, ?_⟩
    calc Spec.runAll (List.replicate (k + 2) Instr.owReadBit) s
        = Spec.runAll (List.replicate (k + 1) Instr.owReadBit)
            (respondOk (zextBit (readSlot s).1) (readSlot s).2) := rfl
      _ = _ := hrun
      _ = some (respondOk data (readSlots (k + 2) i r s).2) := by
        rw [readSlots_respondOk, respondOk_respondOk]
        rfl

/-- Settles O26: either byte command is its eight slots and a response, and so are eight bit commands. -/
theorem owByteIsEightBitCommands : Obligations.OwByteIsEightBitCommands := by
  constructor
  · intro s byte
    refine ⟨_, exec_owWriteByte byte s, ?_⟩
    rw [bitsLsbFirst_eq]
    exact runAll_owWriteBit _ _ s
  · intro s
    obtain ⟨data, hrun⟩ := runAll_owReadBit 7 0 0 s
    exact ⟨_, _, exec_owReadByte s, hrun, respondOk_eq_with_port data _ _⟩

/-! ### Construction (R201, R262, R264) -/

/-- PX_INIT by the capacity (R201, R88). -/
theorem exec_pxInit (n : BitVec 16) (s : State) :
    exec (.pxInit n) s = if n.toNat ≤ s.cfg.pxMax
      then .next (respondOk 0 { s with px := { n := n, entries := List.replicate n.toNat blackTriplet } })
      else .next (raise .illegal s) := by
  show execPxInit n s = _
  simp [execPxInit, pxSizeLegal]

/-- MA_INIT by the capacity (R262, R88). -/
theorem exec_maInit (n : BitVec 16) (s : State) :
    exec (.maInit n) s = if n.toNat ≤ s.cfg.maMax
      then .next (respondOk 0 { s with ma := { size := n, buf := [] } })
      else .next (raise .illegal s) := by
  show execMaInit n s = _
  simp [execMaInit, maSizeLegal]

theorem exec_maReset (s : State) :
    exec .maReset s = .next (respondOk 0 { s with ma := { s.ma with buf := [] } }) := rfl

/-- An exception answers with its code and data 0, and leaves the record alone (R283). -/
theorem errResponse_raise (e : Exception) (s : State) : ErrResponse s (raise e s) e.status.code := rfl

theorem onlyPort_raise (e : Exception) (s : State) : OnlyPort s (raise e s) := rfl

/-- Settles O32: the new list is `n` copies of black; above the capacity the command is a `raise`. -/
theorem pxInitBuildsABlackBuffer : Obligations.PxInitBuildsABlackBuffer := by
  intro s n
  rw [exec_pxInit]
  constructor
  · intro hle
    rw [if_pos hle]
    exact ⟨_, rfl, okResponse_respondOk 0 _, rfl, fun j => List.getElem?_replicate, rfl⟩
  · intro hgt
    rw [if_neg (Nat.not_le.2 hgt)]
    exact ⟨_, rfl, errResponse_raise .illegal s, onlyPort_raise .illegal s⟩

/-- Settles O46: as PX_INIT, with an empty window; MA_RESET writes the samples alone. -/
theorem maInitAndResetEmptyTheWindow : Obligations.MaInitAndResetEmptyTheWindow := by
  intro s n
  rw [exec_maInit]
  refine ⟨fun hle => ?init, fun hgt => ?refused, _, exec_maReset s, okResponse_respondOk 0 _, rfl, rfl, rfl⟩
  case init =>
    rw [if_pos hle]
    exact ⟨_, rfl, okResponse_respondOk 0 _, rfl, rfl, rfl⟩
  case refused =>
    rw [if_neg (Nat.not_le.2 hgt)]
    exact ⟨_, rfl, errResponse_raise .illegal s, onlyPort_raise .illegal s⟩

end Sys2Proof.Machine
end

section
/-! SUPPORT. The family 40_timebase: the timer of TM_START and TM_ELAPSED. -/

namespace Sys2Proof.Machine

/-! ### The timer commands (R114, R115) -/

theorem exec_tmStart (s : State) : exec .tmStart s = .next (respondOk 0 { s with tmStart := s.nowMs }) := rfl

theorem exec_tmElapsed (s : State) : exec .tmElapsed s = .next (respondOk (tdiff s.cfg s.nowMs s.tmStart) s) := rfl

/-- What TM_ELAPSED measures, as an integer: any start register counts, also one that holds no `W`-bit value. -/
theorem tdiff_tickOfNat_cast {P : Config.Params} (hv : P.valid) (n : Nat) (start : Word) :
    ((tdiff P (tickOfNat P n) start).toNat : Int) = ((n : Int) - start.toNat) % (2 ^ P.tickBits : Nat) := by
  rw [tdiff_toNat hv, tickOfNat_toNat hv, tickDiff_mod_left, tickDiff_cast]

/-- Settles O13: TM_START stores the counter, and TM_ELAPSED answers with the difference of the counter and the register. -/
theorem timerStartsAndReads : Obligations.TimerStartsAndReads := by
  intro s hv
  exact ⟨⟨_, exec_tmStart s, okResponse_respondOk 0 _, tickOfNat_toNat hv _, rfl⟩,
    ⟨_, _, exec_tmElapsed s, onlyPort_respondOk _ s, okResponse_respondOk _ s, tdiff_tickOfNat_cast hv _ s.tmStart⟩⟩

/-! ### Whole milliseconds (R116, R117, R118) -/

/-- A common starting point cancels out of the difference of two differences. -/
theorem tickDiff_tickDiff (P : Config.Params) (a b m : Nat) :
    Spec.tickDiff P (Spec.tickDiff P a m) (Spec.tickDiff P b m) = Spec.tickDiff P a b := by
  apply Int.ofNat_inj.1
  rw [tickDiff_cast, tickDiff_cast, tickDiff_cast, tickDiff_cast, ← Int.sub_emod]
  congr 1
  omega

/-- The same for words. -/
theorem tdiff_tdiff {P : Config.Params} (hv : P.valid) (a b m : Word) :
    tdiff P (tdiff P a m) (tdiff P b m) = tdiff P a b := by
  apply BitVec.eq_of_toNat_eq
  rw [tdiff_toNat hv, tdiff_toNat hv, tdiff_toNat hv, tickDiff_tickDiff, tdiff_toNat hv]

/-- A count that is `k` ahead differs by the Tick of `k`, also where it wrapped in between (R116). -/
theorem tdiff_tickOfNat_add {P : Config.Params} (hv : P.valid) (n k : Nat) :
    tdiff P (tickOfNat P (n + k)) (tickOfNat P n) = tickOfNat P k := by
  apply BitVec.eq_of_toNat_eq
  rw [tdiff_tickOfNat hv, tickDiff_of_le P (Nat.le_add_right n k), Nat.add_sub_cancel_left, tickOfNat_toNat hv]

/-- A counter that can hold `k` reads it unchanged. -/
theorem tickOfNat_of_lt {P : Config.Params} {k : Nat} (hk : k < 2 ^ P.tickBits) : tickOfNat P k = BitVec.ofNat 32 k := by
  rw [tickOfNat, Nat.mod_eq_of_lt hk]

/-- `k` milliseconds move the millisecond counter by `k` ticks, whatever part of a millisecond had passed (R117). -/
theorem tdiff_nowMs_of_time {s u : State} {k : Nat} (hv : s.cfg.valid) (hk : k < 2 ^ s.cfg.tickBits)
    (hcfg : u.cfg = s.cfg) (htime : u.time = s.time + k * 1000000) :
    tdiff s.cfg u.nowMs s.nowMs = BitVec.ofNat 32 k := by
  rw [State.nowMs, State.nowMs, hcfg, htime, Nat.add_mul_div_right _ _ (by decide), tdiff_tickOfNat_add hv,
    tickOfNat_of_lt hk]

/-- Settles O16: either difference is that of the two readings of the counter, which lie 100 ticks apart. In the second
reading the start register is common to both answers and cancels out. -/
theorem timerCountsAHundredMilliseconds : Obligations.TimerCountsAHundredMilliseconds := by
  constructor
  · intro s t u hv hwidth hstart hu
    obtain rfl := Host.Outcome.next.inj ((exec_tmStart s).symm.trans hstart)
    subst hu
    exact ⟨_, exec_tmElapsed _, rfl, tdiff_nowMs_of_time hv hwidth rfl rfl⟩
  · intro s t u hv hwidth helapsed hu
    obtain rfl := Host.Outcome.next.inj ((exec_tmElapsed s).symm.trans helapsed)
    subst hu
    exact ⟨_, exec_tmElapsed _, rfl, (tdiff_tdiff hv _ _ _).trans (tdiff_nowMs_of_time hv hwidth rfl rfl)⟩

end Sys2Proof.Machine
end

section
/-! SUPPORT. The family 41_digital_line: DL_SET_PULL, DL_WRITE and DL_READ by the direction of the line; OW_READ_BIT and the
presence sample of OW_RESET. -/

namespace Sys2Proof.Machine

/-! ### The DL commands on a line that exists (R131 to R133) -/

/-- Where one line was written, it holds the new registers, and every other line its old ones. -/
theorem line_set_and_others {s t : State} {l : Nat} {ln : Line} (h : t.lines = s.lines.set l ln)
    (hl : l < s.lines.length) : t.line l = ln ∧ ∀ k, k ≠ l → t.line k = s.line k :=
  ⟨(line_of_lines_set h hl l).trans (if_pos rfl), fun k hk => (line_of_lines_set h hl k).trans (if_neg hk)⟩

theorem exec_dlSetPull_of_lt {s : State} {line : Byte} (p : Pull) (h : line.toNat < s.cfg.numLines) :
    exec (.dlSetPull line p) s = .next (respondOk 0 (setPull line.toNat p s)) :=
  if_pos ((hasLine_iff s line).2 h)

/-- Settles O18: `setPull` writes one field of one line and logs it. -/
theorem dlSetPullSetsThePull : Obligations.DlSetPullSetsThePull := by
  intro s line p hlen hline
  have hexists : line.toNat < s.lines.length := hlen ▸ hline
  obtain ⟨hwritten, hothers⟩ :=
    line_set_and_others (t := respondOk 0 (setPull line.toNat p s)) (respondOk_lines _ _) hexists
  exact ⟨_, exec_dlSetPull_of_lt p hline, okResponse_respondOk 0 _, hwritten, hothers, rfl, rfl⟩

/-- DL_WRITE by the direction of the line (R132). -/
theorem exec_dlWrite_of_lt {s : State} {line : Byte} (level : Bit) (h : line.toNat < s.cfg.numLines) :
    exec (.dlWrite line level) s = if (s.line line.toNat).dir = .output
      then .next (respondOk 0 (setOut line.toNat level s))
      else .next (raise .invalidState s) := by
  have hhas := (hasLine_iff s line).2 h
  simp only [exec, execDlWrite, lineOperand, if_pos hhas]
  cases (s.line line.toNat).dir with
  | input => rfl
  | output => rfl

/-- DL_READ by the direction of the line (R133). -/
theorem exec_dlRead_of_lt {s : State} {line : Byte} (h : line.toNat < s.cfg.numLines) :
    exec (.dlRead line) s = if (s.line line.toNat).dir = .input
      then .next (respondOk (zextBit (sample line.toNat s).1) (sample line.toNat s).2)
      else .next (raise .invalidState s) := by
  have hhas := (hasLine_iff s line).2 h
  simp only [exec, execDlRead, lineOperand, if_pos hhas]
  cases (s.line line.toNat).dir with
  | input => rfl
  | output => rfl

/-- Settles O19: on an output `setOut` writes the latch and logs the pad, which follows it; on an input the command is a
`raise`. -/
theorem dlWriteDrivesAnOutput : Obligations.DlWriteDrivesAnOutput := by
  intro s line level hlen hline
  have hexists : line.toNat < s.lines.length := hlen ▸ hline
  rw [exec_dlWrite_of_lt level hline]
  constructor
  · intro hdir
    rw [if_pos hdir]
    obtain ⟨hwritten, hothers⟩ :=
      line_set_and_others (t := respondOk 0 (setOut line.toNat level s)) (respondOk_lines _ _) hexists
    refine ⟨_, rfl, okResponse_respondOk 0 _, hwritten, hothers, ?logged, rfl⟩
    case logged => simp [setOut_log _ _ _ hexists, pad_eq, hdir]
  · intro hdir
    rw [if_neg (by simp [hdir])]
    exact ⟨_, rfl, errResponse_raise .invalidState s, onlyPort_raise .invalidState s⟩

/-! ### Levels and answers (R12, R136) -/

/-- A level as a response (R10, R133, R153). -/
theorem zextBit_eq (v : Bit) : zextBit v = if v = 1 then 1 else 0 := by
  revert v
  decide

/-- One sample takes one answer, the scripted one where there is one (R12). -/
theorem answersOf_singleton {s : State} {a : EnvAnswer} (ha : ∀ b rest, s.answers = b :: rest → a = b) :
    Spec.AnswersOf s [a] :=
  answersOf_cons (t := { s with answers := s.answers.drop 1 }) rfl ha (answersOf_nil _)

/-- Settles O20: on an input the sample is logged, answered by the environment and returned; on an output the command is a
`raise`. -/
theorem dlReadSamplesAnInput : Obligations.DlReadSamplesAnInput := by
  intro s line hline
  rw [exec_dlRead_of_lt hline]
  constructor
  · intro hdir
    rw [if_pos hdir, sample_eq, zextBit_eq]
    exact ⟨_, s.envAnswer line.toNat, rfl, answersOf_singleton fun _ _ => envAnswer_scripted,
      okResponse_respondOk _ _, rfl, List.drop_one.symm, rfl⟩
  · intro hdir
    rw [if_neg (by simp [hdir])]
    exact ⟨_, rfl, errResponse_raise .invalidState s, onlyPort_raise .invalidState s⟩

/-! ### OW_READ_BIT (R153) -/

theorem exec_owReadBit (s : State) :
    exec .owReadBit s = .next (respondOk (zextBit (readSlot s).1) (readSlot s).2) := rfl

/-- Settles O23: the command is one read slot, which takes one answer. -/
theorem owReadBitReadsOneSlot : Obligations.OwReadBitReadsOneSlot := by
  intro s hv hlen
  have h := lineOw_exists hv hlen
  obtain ⟨a, hanswer, hslot⟩ := readSlot_done s hv h
  rw [exec_owReadBit, hslot, zextBit_eq]
  obtain ⟨hreleased, hothers⟩ :=
    line_set_and_others (t := owDone s s.cfg.tRslot (Spec.readSlotEvents s.cfg (s.line 0).pull a) 1) rfl h
  exact ⟨_, a, rfl, answersOf_singleton hanswer, okResponse_respondOk _ _, rfl, rfl, hreleased, hothers, rfl, rfl⟩

/-! ### The presence sample of OW_RESET (R151, R165) -/

theorem exec_owReset (s : State) :
    exec .owReset s = .next (respondOk (if (sample 0 (resetLead s)).1 = 0 then 1 else 0)
      (wait s.cfg.tRstrec (sample 0 (resetLead s)).2)) := rfl

/-- The presence sample finds the pull-up set. -/
theorem resetLead_pull {s : State} (h : 0 < s.lines.length) : ((resetLead s).line 0).pull = .pullUp := by
  have hlines : (resetLead s).lines = s.lines.set 0 { dir := .input, pull := .pullUp, out := 0 } := by
    rw [resetLead_eq s h]
  rw [(line_set_and_others hlines h).1]

/-- The answer it gets is the first scripted one. -/
theorem resetLead_envAnswer_scripted {s : State} {a : EnvAnswer} {rest : List EnvAnswer} (h : 0 < s.lines.length)
    (hanswers : s.answers = a :: rest) : (resetLead s).envAnswer 0 = a := by
  apply envAnswer_scripted (rest := rest)
  rw [resetLead_eq s h]
  exact hanswers

/-- With the pull-up set only a line the environment holds low reads as low (R136). -/
theorem levelOf_pullUp_eq_zero_iff (a : EnvAnswer) : Spec.levelOf a .pullUp = 0 ↔ a.ext = .l := by
  rcases a with ⟨ext, draw⟩
  cases ext with
  | l | h | z => simp [Spec.levelOf]

/-- Settles O31: the response is 1 when the sampled level is 0, and with the pull-up that is the answer `L`. -/
theorem owPresenceIsTheLowSample : Obligations.OwPresenceIsTheLowSample := by
  intro s a rest hv hlen hanswers
  have h := lineOw_exists hv hlen
  have hlevel : (sample 0 (resetLead s)).1 = 0 ↔ a.ext = .l := by
    rw [sample_eq, resetLead_pull h, resetLead_envAnswer_scripted h hanswers, levelOf_pullUp_eq_zero_iff]
  refine ⟨_, exec_owReset s, rfl, fun hlow => if_pos (hlevel.2 hlow), fun hhigh => if_neg fun hzero => ?_⟩
  rw [hlevel.1 hzero] at hhigh
  exact absurd hhigh (by decide)

end Sys2Proof.Machine
end

section
/-! SUPPORT. The family 42_onewire: OW_RESET in one equation, what the single-wire commands leave of line 0, the byte read
back from its events, the duration of every command, and the phase table of R160 as the commands run whole. -/

namespace Sys2Proof.Machine

/-! ### What each single-wire command leaves (R151 to R155, R158, R159) -/

/-- The state after OW_RESET with the answer `a`, before its response: line 0 released with the pull-up, and nothing
else touched but time, log and answers. -/
def owResetDone (s : State) (a : EnvAnswer) : State :=
  { s with
    time := s.time + (s.cfg.tRstl + s.cfg.tPdwait + s.cfg.tRstrec)
    lines := s.lines.set 0 { dir := .input, pull := .pullUp, out := 0 }
    log := s.log ++ Spec.owResetEvents s.cfg a
    answers := s.answers.drop 1
    draws := s.draws + if s.answers = [] then 1 else 0 }

/-- OW_RESET in one equation: some answer `a`, the scripted one where there is one (R151). -/
theorem exec_owReset_done {s : State} (h : 0 < s.lines.length) :
    ∃ a, (∀ b rest, s.answers = b :: rest → a = b) ∧
      exec .owReset s = .next (respondOk (if Spec.levelOf a .pullUp = 0 then 1 else 0) (owResetDone s a)) := by
  refine ⟨(resetLead s).envAnswer 0, fun _ _ => resetLead_envAnswer_scripted h, ?_⟩
  rw [exec_owReset, sample_eq, resetLead_pull h, wait_eq]
  generalize (resetLead s).envAnswer 0 = a
  rw [resetLead_eq s h]
  simp [owResetDone, Spec.owResetEvents, Nat.add_assoc]

/-- Settles O21: the one equation of OW_RESET, field by field. -/
theorem owResetDetectsPresence : Obligations.OwResetDetectsPresence := by
  intro s hv hlen
  have h := lineOw_exists hv hlen
  obtain ⟨a, hanswer, hexec⟩ := exec_owReset_done h
  obtain ⟨hreleased, hothers⟩ := line_set_and_others (s := s) (t := owResetDone s a) rfl h
  exact ⟨_, a, hexec, answersOf_singleton hanswer, okResponse_respondOk _ _, rfl, rfl, hreleased, hothers, rfl, rfl⟩

theorem exec_owWriteBit (bit : Bit) (s : State) :
    exec (.owWriteBit bit) s = .next (respondOk 0 (writeSlot bit s)) := rfl

/-- Settles O22: the command is one write slot, which takes no answer. -/
theorem owWriteBitSendsOneSlot : Obligations.OwWriteBitSendsOneSlot := by
  intro s bit hv hlen
  have h := lineOw_exists hv hlen
  rw [exec_owWriteBit, writeSlot_done bit s hv h]
  obtain ⟨hreleased, hothers⟩ :=
    line_set_and_others (t := owDone s s.cfg.tWslot (Spec.writeSlotEvents s.cfg bit) 0) rfl h
  refine ⟨_, rfl, okResponse_respondOk _ _, rfl, rfl, hreleased, hothers, ?frame⟩
  case frame => simp [respondOk, respond, owDone]

/-- A command that leaves nothing but slots behind, and its response. -/
theorem exec_slots {i : Instr} {s : State} (hi : Spec.isOneWire i = true) (hne : i ≠ .owReset) (hv : s.cfg.valid)
    (h : 0 < s.lines.length) : ∃ data d es k, exec i s = .next (respondOk data (owDone s d es k)) := by
  cases i with
  | owReset => exact absurd rfl hne
  | owWriteBit bit => exact ⟨_, _, _, _, by rw [exec_owWriteBit, writeSlot_done bit s hv h]⟩
  | owReadBit =>
    obtain ⟨a, -, hslot⟩ := readSlot_done s hv h
    exact ⟨_, _, _, _, by rw [exec_owReadBit, hslot]⟩
  | owWriteByte byte => exact ⟨_, _, _, _, exec_owWriteByte_done byte hv h⟩
  | owReadByte =>
    obtain ⟨as, v, hslots, -⟩ := readSlots_done 8 0 0 s hv h (by decide) (by decide)
    exact ⟨_, _, _, _, by rw [exec_owReadByte, hslots]⟩
  | _ => exact absurd hi Bool.false_ne_true

/-- Settles O27: OW_RESET has its own equation, every other command is slots. -/
theorem owLeavesLineZeroReleased : Obligations.OwLeavesLineZeroReleased := by
  intro i s hi hv hlen hrest
  have h := lineOw_exists hv hlen
  by_cases hreset : i = .owReset
  · subst hreset
    obtain ⟨a, -, hexec⟩ := exec_owReset_done h
    have hline : (respondOk (if Spec.levelOf a .pullUp = 0 then 1 else 0) (owResetDone s a)).line 0 =
      { dir := .input, pull := .pullUp, out := 0 } := (line_set_and_others rfl h).1
    exact ⟨_, hexec, by rw [hline], by rw [hline], by rw [hline, if_pos rfl], hrest⟩
  · obtain ⟨data, d, es, k, hexec⟩ := exec_slots hi hreset hv h
    have hline : (respondOk data (owDone s d es k)).line 0 =
      { dir := .input, pull := (s.line 0).pull, out := 0 } := (line_set_and_others rfl h).1
    exact ⟨_, hexec, by rw [hline], by rw [hline], by rw [hline, if_neg hreset], hrest⟩

/-- Settles O28: every single-wire command ends in `respondOk`, whether or not line 0 exists. -/
theorem owNeverRaisesInvalidState : Obligations.OwNeverRaisesInvalidState := by
  intro i s hi
  cases i with
  | owReset => exact ⟨_, exec_owReset s, rfl⟩
  | owWriteBit bit => exact ⟨_, exec_owWriteBit bit s, rfl⟩
  | owReadBit => exact ⟨_, exec_owReadBit s, rfl⟩
  | owWriteByte byte => exact ⟨_, exec_owWriteByte byte s, rfl⟩
  | owReadByte => exact ⟨_, exec_owReadByte s, rfl⟩
  | _ => exact absurd hi Bool.false_ne_true

/-! ### The byte read back from its events (R167) -/

/-- A write slot begins with a low of positive length (R6). -/
theorem lowTime_pos {P : Config.Params} (hv : P.valid) (bit : Bit) : 0 < Spec.lowTime P bit := by
  obtain ⟨-, -, -, ⟨hone, -⟩, ⟨hzero, -⟩, -⟩ := hv
  unfold Spec.lowTime
  split
  · exact hone
  · exact Nat.lt_trans hone hzero

theorem lowTimes_waited_append (l d : Nat) (es : List Event) : lowTimes l (Spec.waited d ++ es) = lowTimes l es := by
  unfold Spec.waited
  split
  · rfl
  · rfl

/-- A write slot in front of other events adds its low time. -/
theorem lowTimes_writeSlotEvents {P : Config.Params} (hv : P.valid) (bit : Bit) (es : List Event) :
    lowTimes 0 (Spec.writeSlotEvents P bit ++ es) = Spec.lowTime P bit :: lowTimes 0 es := by
  calc lowTimes 0 (Spec.writeSlotEvents P bit ++ es)
      = Spec.lowTime P bit :: lowTimes 0 (Spec.waited (P.tWslot - Spec.lowTime P bit) ++ es) := by
        simp [Spec.writeSlotEvents, waited_pos (lowTime_pos hv bit), lowTimes]
    _ = Spec.lowTime P bit :: lowTimes 0 es := by rw [lowTimes_waited_append]

/-- Write slots back to back show the low time of each bit. -/
theorem lowTimes_writeSlots {P : Config.Params} (hv : P.valid) (bits : List Bit) :
    lowTimes 0 (bits.flatMap (Spec.writeSlotEvents P)) = bits.map (Spec.lowTime P) := by
  induction bits with
  | nil => rfl
  | cons bit bits ih => rw [List.flatMap_cons, lowTimes_writeSlotEvents hv, ih, List.map_cons]

/-- The low time of a bit tells the bit (R6: the low of a 0 is the longer one). -/
theorem lowTime_ofBool_eq_iff {P : Config.Params} (hv : P.valid) (b : Bool) :
    (Spec.lowTime P (BitVec.ofBool b) = P.tW1l ↔ b = true) ∧
      (Spec.lowTime P (BitVec.ofBool b) = P.tW0l ↔ b = false) := by
  obtain ⟨-, -, -, -, ⟨hlt, -⟩, -⟩ := hv
  have hne : P.tW0l ≠ P.tW1l := Nat.ne_of_gt hlt
  cases b with
  | false => simp [Spec.lowTime, hne]
  | true => simp [Spec.lowTime, hne.symm]

/-- Settles O30: the low times are those of the eight bits in order, and a low time tells its bit. -/
theorem owWrittenByteCanBeReadBack : Obligations.OwWrittenByteCanBeReadBack := by
  intro s byte hv hlen
  have hlow := lowTimes_writeSlots hv (Spec.owBits byte)
  have hget : ∀ i, i < 8 → (lowTimes 0 ((Spec.owBits byte).flatMap (Spec.writeSlotEvents s.cfg)))[i]? =
      some (Spec.lowTime s.cfg (BitVec.ofBool (byte.getLsbD i))) := by
    intro i hi
    rw [hlow]
    simp [Spec.owBits, hi]
  refine ⟨_, _, exec_owWriteByte_done byte hv (lineOw_exists hv hlen), rfl, ?count, fun i hi => ?one,
    fun i hi => ?zero⟩
  case count => rw [hlow, List.length_map, length_owBits]
  case one => rw [hget i hi, Option.some_inj, (lowTime_ofBool_eq_iff hv _).1]
  case zero => rw [hget i hi, Option.some_inj, (lowTime_ofBool_eq_iff hv _).2]

/-! ### Durations (R163, R210, R330, R331)

A slot takes its time also in a state that has no line 0. -/

theorem writeSlot_time {s : State} (hv : s.cfg.valid) (bit : Bit) :
    (writeSlot bit s).time = s.time + s.cfg.tWslot := by
  have hle := writeLow_le hv bit
  simp only [writeSlot, wait_time, owRelease, release_time, owDriveLow, drive_time]
  omega

theorem writeSlots_time (bits : List Bit) {s : State} (hv : s.cfg.valid) :
    (writeSlots bits s).time = s.time + bits.length * s.cfg.tWslot := by
  induction bits generalizing s with
  | nil => simp [writeSlots]
  | cons bit bits ih =>
    have hcfg : (writeSlot bit s).cfg = s.cfg := ((OnLine.start 0 s).writeSlot bit).cfg
    rw [writeSlots, ih (hcfg.symm ▸ hv), hcfg, writeSlot_time hv, List.length_cons, Nat.succ_mul]
    omega

@[simp] theorem sample_time (l : Nat) (s : State) : (sample l s).2.time = s.time := by rw [sample_eq]

theorem readSlot_time {s : State} (hv : s.cfg.valid) : (readSlot s).2.time = s.time + s.cfg.tRslot := by
  have hfits := read_fits hv
  simp only [readSlot, wait_time, sample_time, readLead, readTail, owRelease, release_time, owDriveLow, drive_time]
  omega

theorem readSlots_time (k i : Nat) (r : Byte) {s : State} (hv : s.cfg.valid) :
    (readSlots k i r s).2.time = s.time + k * s.cfg.tRslot := by
  induction k generalizing i r s with
  | zero => simp [readSlots]
  | succ k ih =>
    have hcfg : (readSlot s).2.cfg = s.cfg := (OnLine.start 0 s).readSlot.cfg
    rw [readSlots, ih _ _ (hcfg.symm ▸ hv), hcfg, readSlot_time hv, Nat.succ_mul]
    omega

theorem resetLead_time (s : State) : (resetLead s).time = s.time + s.cfg.tRstl + s.cfg.tPdwait := by
  simp [resetLead, owRelease, owDriveLow]

/-- The bits of a frame by their number (R210). -/
theorem logTime_cells (P : Config.Params) (bits : List Bit) : logTime (bits.flatMap (Spec.cellEvents P)) =
    Spec.onesOf bits * (P.t1h + P.t1l) + Spec.zerosOf bits * (P.t0h + P.t0l) := by
  induction bits with
  | nil => simp [Spec.onesOf, Spec.zerosOf, logTime]
  | cons v bits ih =>
    rw [List.flatMap_cons, logTime_append, logTime_cellEvents, ih]
    have hv : v = 0 ∨ v = 1 := by
      revert v
      decide
    rcases hv with rfl | rfl
    case inl =>
      show P.t0h + P.t0l + _ = Spec.onesOf bits * (P.t1h + P.t1l) + (Spec.zerosOf bits + 1) * (P.t0h + P.t0l)
      rw [Nat.succ_mul]
      omega
    case inr =>
      show P.t1h + P.t1l + _ = (Spec.onesOf bits + 1) * (P.t1h + P.t1l) + Spec.zerosOf bits * (P.t0h + P.t0l)
      rw [Nat.succ_mul]
      omega

theorem logTime_frameEvents (s : State) :
    logTime (Spec.frameEvents s.cfg s.px.entries s.px.n.toNat) = Spec.duration s .pxWrite := by
  simp [Spec.frameEvents, logTime_cells, logTime, Spec.duration]

/-- The command answers `OK` after its duration, or raises an error at once. -/
def Lasts (i : Instr) (s : State) : Prop :=
  ∃ t, exec i s = .next t ∧ (t.port.rspStatus = 0 → t.time = s.time + Spec.duration s i) ∧
    (t.port.rspStatus ≠ 0 → t.time = s.time)

section Lasts
variable {i : Instr} {s t : State}

theorem lasts_of_respondOk {data : Word} (h : exec i s = .next (respondOk data t))
    (htime : t.time = s.time + Spec.duration s i) : Lasts i s :=
  ⟨_, h, fun _ => htime, fun hne => absurd rfl hne⟩

/-- Every command but the timed ones leaves the time alone, however it answers. -/
theorem lasts_of_untimed (hi : Spec.writesTime i = false) (hduration : Spec.duration s i = 0) : Lasts i s := by
  obtain ⟨t, ht, own⟩ := exec_ownAnswer i s
  exact ⟨t, ht, fun _ => by rw [own.time hi, hduration, Nat.add_zero], fun _ => own.time hi⟩

theorem lasts_owReset : Lasts .owReset s := by
  refine lasts_of_respondOk (exec_owReset s) ?_
  rw [wait_time, sample_time, resetLead_time, Spec.duration, Nat.add_assoc, Nat.add_assoc, Nat.add_assoc]

/-- PX_WRITE takes the time of its frame, or none where it raises `INVALID_STATE` (R208, R210). -/
theorem lasts_pxWrite : Lasts .pxWrite s := by
  cases hdir : (s.line 1).dir with
  | input =>
    have hraise : exec .pxWrite s = .next (raise .invalidState s) := by
      simp only [exec, execPxWrite, Config.linePx, hdir]
    exact ⟨_, hraise, fun hok => absurd hok (show (1 : BitVec 4) ≠ 0 by decide), fun _ => rfl⟩
  | output =>
    refine lasts_of_respondOk (exec_pxWrite_of_output hdir (lt_of_dir_output hdir)) ?_
    rw [pxDone_time, logTime_frameEvents]

end Lasts

/-- Settles O38: the five single-wire commands by their slots, PX_WRITE by its frame, and no other command takes
time. -/
theorem durationOfEveryCommand : Obligations.DurationOfEveryCommand := by
  intro i s hv
  show Lasts i s
  cases i with
  | owReset => exact lasts_owReset
  | owWriteBit bit => exact lasts_of_respondOk (exec_owWriteBit bit s) (writeSlot_time hv bit)
  | owReadBit => exact lasts_of_respondOk (exec_owReadBit s) (readSlot_time hv)
  | owWriteByte byte =>
    have htime := writeSlots_time (bitsLsbFirst byte) hv
    rw [bitsLsbFirst_eq, length_owBits, ← bitsLsbFirst_eq] at htime
    exact lasts_of_respondOk (exec_owWriteByte byte s) htime
  | owReadByte => exact lasts_of_respondOk (exec_owReadByte s) (readSlots_time 8 0 0 hv)
  | pxWrite => exact lasts_pxWrite
  | _ => exact lasts_of_untimed rfl rfl

/-! ### The phase table of R160 against the commands run whole (R161)

A phase is an operation of the whole command with the sequencer written beside it, so the sequencer is moved out of the
way first. -/

section Sequenced
variable (s : State) (q : Sequencer)

theorem sample_setSeq (l : Nat) : sample l (s.setSeq q) = ((sample l s).1, (sample l s).2.setSeq q) := by
  rw [sample_eq, sample_eq]
  rfl

/-- Where `cnt` is at rest, a phase is its wait and the move to the next phase. -/
theorem spend_setSeq (len : Nat) (next : Phase) (h : q.cnt = 0) :
    spend len next (s.setSeq q) = (wait len s).setSeq { q with phase := next } := by
  rw [spend_eq, wait_eq, ← h]
  rfl

theorem finish_setSeq (data : Word) : finish data (s.setSeq q) = finish data s := rfl

end Sequenced

/-- The phase register and the rest of the sequencer in slot `j` of a single-wire command (R160). -/
def owSeq (phase : Phase) (op : OwOp) (j : Nat) (sh : Byte) : Sequencer :=
  { Sequencer.atRest with phase := phase, owOp := op, bitidx := BitVec.ofNat 3 j, sh := sh }

/-- How many slots a command has: eight for a byte. -/
def slotCount : OwOp → Nat
  | .wbyte | .rbyte => 8
  | .none | .reset | .wbit | .rbit => 1

/-- The bit that slot `j` of a writing command sends: bit `j` of the byte, or bit 0 of the command word. -/
def slotBit (op : OwOp) (cmd : Word) (sh : Byte) (j : Nat) : Bit :=
  match op with
  | .wbyte => byteBit sh j
  | .none | .reset | .wbit | .rbit | .rbyte => bitField cmd

/-- The register `bitidx` holds any slot number of a byte. -/
theorem bitidx_toNat {j : Nat} (hj : j < 8) : (BitVec.ofNat 3 j).toNat = j :=
  (BitVec.toNat_ofNat j 3).trans (Nat.mod_eq_of_lt hj)

section Slots
variable {op : OwOp} {j : Nat} {sh : Byte} (s : State) (phase : Phase)

/-- `cur` of R160. -/
theorem curWriteBit_owSeq (hj : j < slotCount op) :
    (s.setSeq (owSeq phase op j sh)).curWriteBit = slotBit op s.port.cmd sh j := by
  cases op with
  | wbyte =>
    show byteBit sh (BitVec.ofNat 3 j).toNat = byteBit sh j
    rw [bitidx_toNat hj]
  | none | reset | wbit | rbit | rbyte => rfl

/-- `last` of R160. -/
theorem lastSlot_owSeq (hj : j < slotCount op) :
    (s.setSeq (owSeq phase op j sh)).lastSlot = decide (j + 1 = slotCount op) := by
  cases op with
  | wbyte | rbyte =>
    rw [Bool.eq_iff_iff, decide_eq_true_iff]
    show (BitVec.ofNat 3 j == 7) = true ↔ j + 1 = 8
    rw [beq_iff_eq, ← BitVec.toNat_inj, bitidx_toNat hj]
    exact Nat.succ_inj.symm
  | none | reset | wbit | rbit =>
    have h0 : j = 0 := Nat.lt_one_iff.1 hj
    subst h0
    rfl

/-- To the next slot. -/
theorem nextSlot_owSeq (p : Phase) :
    nextSlot p (s.setSeq (owSeq phase op j sh)) = s.setSeq (owSeq p op (j + 1) sh) := by
  have hidx : BitVec.ofNat 3 j + 1 = BitVec.ofNat 3 (j + 1) := (BitVec.ofNat_add j 1).symm
  show s.setSeq { owSeq p op j sh with bitidx := BitVec.ofNat 3 j + 1 } = _
  rw [hidx]
  rfl

end Slots

/-- A running command does its phase, then the rest of the run. -/
theorem phaseRun_succ {phase : Phase} {op : OwOp} {j : Nat} {sh : Byte} {s t : State} (k : Nat)
    (hstep : phaseStep (s.setSeq (owSeq phase op j sh)) = t) (hphase : phase ≠ .idle) :
    phaseRun (k + 1) (s.setSeq (owSeq phase op j sh)) = phaseRun k t := by
  rw [← hstep]
  exact if_neg hphase

/-- Where a slot goes that leaves `t`: to the next slot, which begins in the phase `first`, or to the response. -/
def afterSlot (first : Phase) (op : OwOp) (j : Nat) (sh : Byte) (data : Word) (t : State) : State :=
  if j + 1 = slotCount op then finish data t else t.setSeq (owSeq first op (j + 1) sh)

/-- The last column of R160 decides so. -/
theorem ite_lastSlot_eq_afterSlot {op : OwOp} {j : Nat} (hj : j < slotCount op) (first phase : Phase) (sh : Byte)
    (data : Word) (t : State) :
    (if (t.setSeq (owSeq phase op j sh)).lastSlot then finish data (t.setSeq (owSeq phase op j sh))
      else nextSlot first (t.setSeq (owSeq phase op j sh))) = afterSlot first op j sh data t := by
  simp only [lastSlot_owSeq t phase hj, decide_eq_true_eq, finish_setSeq, nextSlot_owSeq, afterSlot]

section Rows
variable {op : OwOp} {j : Nat} (sh : Byte) (s : State)

/-! The rows of R160 for a slot. -/

theorem phaseStep_wLow (hj : j < slotCount op) : phaseStep (s.setSeq (owSeq .wLow op j sh)) =
    (wait (writeLow s.cfg (slotBit op s.port.cmd sh j)) (owDriveLow s)).setSeq (owSeq .wRel op j sh) := by
  rw [← curWriteBit_owSeq s .wLow hj]
  exact spend_setSeq (owDriveLow s) _ _ _ rfl

theorem phaseStep_wRel (hj : j < slotCount op) : phaseStep (s.setSeq (owSeq .wRel op j sh)) =
    afterSlot .wLow op j sh 0
      (wait (s.cfg.tWslot - writeLow s.cfg (slotBit op s.port.cmd sh j)) (owRelease s)) := by
  rw [← curWriteBit_owSeq s .wRel hj, ← ite_lastSlot_eq_afterSlot hj .wLow .wRel]
  have hspend := spend_setSeq (owRelease s) (owSeq .wRel op j sh)
    (s.cfg.tWslot - writeLow s.cfg (s.setSeq (owSeq .wRel op j sh)).curWriteBit) .wRel rfl
  exact congrArg (fun t : State => if t.lastSlot then finish 0 t else nextSlot .wLow t) hspend

theorem phaseStep_rdInit : phaseStep (s.setSeq (owSeq .rdInit op j sh)) =
    (wait s.cfg.tRinit (owDriveLow s)).setSeq (owSeq .rdWait op j sh) :=
  spend_setSeq (owDriveLow s) _ _ _ rfl

theorem phaseStep_rdWait : phaseStep (s.setSeq (owSeq .rdWait op j sh)) =
    (wait s.cfg.tRwait (owRelease s)).setSeq (owSeq .rdSmp op j sh) :=
  spend_setSeq (owRelease s) _ _ _ rfl

theorem phaseStep_rdSmp (hj : j < 8) : phaseStep (s.setSeq (owSeq .rdSmp op j sh)) =
    (sample Config.lineOw s).2.setSeq (owSeq .rdRec op j (setByteBit sh j (sample Config.lineOw s).1)) := by
  have hinto : sampleIntoSh (s.setSeq (owSeq .rdSmp op j sh)) = (sample Config.lineOw s).2.setSeq
      (owSeq .rdSmp op j (setByteBit sh j (sample Config.lineOw s).1)) := by
    unfold sampleIntoSh
    rw [sample_setSeq]
    show (sample Config.lineOw s).2.setSeq
      (owSeq .rdSmp op j (setByteBit sh (BitVec.ofNat 3 j).toNat (sample Config.lineOw s).1)) = _
    rw [bitidx_toNat hj]
  show spend 0 .rdRec (sampleIntoSh (s.setSeq (owSeq .rdSmp op j sh))) = _
  rw [hinto]
  exact spend_setSeq _ _ _ _ rfl

theorem phaseStep_rdRec (hj : j < slotCount op) : phaseStep (s.setSeq (owSeq .rdRec op j sh)) =
    afterSlot .rdInit op j sh (zextByte sh) (wait (readTail s.cfg) s) := by
  rw [← ite_lastSlot_eq_afterSlot hj .rdInit .rdRec]
  have hspend := spend_setSeq s (owSeq .rdRec op j sh) (readTail s.cfg) .rdRec rfl
  exact congrArg (fun t : State => if t.lastSlot then finish (zextByte t.seq.sh) t else nextSlot .rdInit t) hspend

end Rows

/-- Every slot number fits a byte. -/
theorem lt_eight_of_lt_slotCount {op : OwOp} {j : Nat} (hj : j < slotCount op) : j < 8 := by
  refine Nat.lt_of_lt_of_le hj ?_
  cases op <;> decide

theorem OnLine.readLead {s t : State} (h : OnLine 0 s t) : OnLine 0 s (readLead t) :=
  (((h.drive _ _).wait _).release).wait _

@[simp] theorem writeSlot_port (bit : Bit) (s : State) : (writeSlot bit s).port = s.port :=
  ((OnLine.start 0 s).writeSlot bit).port

/-! A slot is its phases (R152, R153). -/

theorem phaseRun_writeSlot {op : OwOp} {j : Nat} (hj : j < slotCount op) (k : Nat) (sh : Byte) (s : State) :
    phaseRun (k + 2) (s.setSeq (owSeq .wLow op j sh)) =
      phaseRun k (afterSlot .wLow op j sh 0 (writeSlot (slotBit op s.port.cmd sh j) s)) := by
  have hrel := phaseStep_wRel sh (wait (writeLow s.cfg (slotBit op s.port.cmd sh j)) (owDriveLow s)) hj
  rw [wait_cfg, wait_port] at hrel
  exact (phaseRun_succ _ (phaseStep_wLow sh s hj) nofun).trans (phaseRun_succ k hrel nofun)

theorem phaseRun_readSlot {op : OwOp} {j : Nat} (hj : j < slotCount op) (k : Nat) (sh : Byte) (s : State) :
    phaseRun (k + 4) (s.setSeq (owSeq .rdInit op j sh)) =
      phaseRun k (afterSlot .rdInit op j (setByteBit sh j (readSlot s).1)
        (zextByte (setByteBit sh j (readSlot s).1)) (readSlot s).2) := by
  have hwait := phaseStep_rdWait (op := op) (j := j) sh (wait s.cfg.tRinit (owDriveLow s))
  rw [wait_cfg] at hwait
  have hrec := phaseStep_rdRec (setByteBit sh j (readSlot s).1) (sample Config.lineOw (readLead s)).2 hj
  have hcfg : (sample Config.lineOw (readLead s)).2.cfg = s.cfg := ((OnLine.start 0 s).readLead.sample 0).cfg
  rw [hcfg] at hrec
  calc phaseRun (k + 4) (s.setSeq (owSeq .rdInit op j sh))
      = phaseRun (k + 3) ((wait s.cfg.tRinit (owDriveLow s)).setSeq (owSeq .rdWait op j sh)) :=
        phaseRun_succ _ (phaseStep_rdInit sh s) nofun
    _ = phaseRun (k + 2) ((readLead s).setSeq (owSeq .rdSmp op j sh)) := phaseRun_succ _ hwait nofun
    _ = phaseRun (k + 1) ((sample Config.lineOw (readLead s)).2.setSeq
          (owSeq .rdRec op j (setByteBit sh j (readSlot s).1))) :=
        phaseRun_succ _ (phaseStep_rdSmp sh (readLead s) (lt_eight_of_lt_slotCount hj)) nofun
    _ = _ := phaseRun_succ k hrec nofun

/-- The bits that slots `j`, `j + 1`, ... of a writing command send. -/
def slotBits (op : OwOp) (cmd : Word) (sh : Byte) (j n : Nat) : List Bit :=
  (List.range' j n).map (slotBit op cmd sh)

/-- The slots from `j` on, phase by phase, are the slots back to back and the response (R152, R154). -/
theorem phaseRun_writeSlots (n j : Nat) (op : OwOp) (sh : Byte) (s : State) (hn : j + (n + 1) = slotCount op) :
    phaseRun (2 * (n + 1)) (s.setSeq (owSeq .wLow op j sh)) =
      finish 0 (writeSlots (slotBits op s.port.cmd sh j (n + 1)) s) := by
  induction n generalizing j s with
  | zero =>
    rw [phaseRun_writeSlot (by omega) 0, afterSlot, if_pos hn]
    rfl
  | succ n ih =>
    rw [show 2 * (n + 1 + 1) = 2 * (n + 1) + 2 from rfl, phaseRun_writeSlot (by omega), afterSlot, if_neg (by omega),
      ih (j + 1) _ (by omega), writeSlot_port]
    rfl

/-- So are the read slots, which collect their levels in `sh` (R153, R155). -/
theorem phaseRun_readSlots (n j : Nat) (op : OwOp) (sh : Byte) (s : State) (hn : j + (n + 1) = slotCount op) :
    phaseRun (4 * (n + 1)) (s.setSeq (owSeq .rdInit op j sh)) =
      finish (zextByte (readSlots (n + 1) j sh s).1) (readSlots (n + 1) j sh s).2 := by
  induction n generalizing j sh s with
  | zero =>
    rw [phaseRun_readSlot (by omega) 0, afterSlot, if_pos hn]
    rfl
  | succ n ih =>
    rw [show 4 * (n + 1 + 1) = 4 * (n + 1) + 4 from rfl, phaseRun_readSlot (by omega), afterSlot, if_neg (by omega),
      ih (j + 1) _ _ (by omega)]
    rfl

/-! The rows of R160 for OW_RESET. -/

section ResetRows
variable (sh : Byte) (s : State)

theorem phaseStep_rLow : phaseStep (s.setSeq (owSeq .rLow .reset 0 sh)) =
    (wait s.cfg.tRstl (owDriveLow s)).setSeq (owSeq .rWait .reset 0 sh) :=
  spend_setSeq (owDriveLow s) _ _ _ rfl

theorem phaseStep_rWait : phaseStep (s.setSeq (owSeq .rWait .reset 0 sh)) =
    (wait s.cfg.tPdwait (setPull Config.lineOw .pullUp (owRelease s))).setSeq (owSeq .rSmp .reset 0 sh) :=
  spend_setSeq (setPull Config.lineOw .pullUp (owRelease s)) _ _ _ rfl

theorem phaseStep_rSmp : phaseStep (s.setSeq (owSeq .rSmp .reset 0 sh)) =
    (sample Config.lineOw s).2.setSeq (owSeq .rRec .reset 0 (setByteBit sh 0 (sample Config.lineOw s).1)) := by
  refine (congrArg (fun p : Bit × State => spend 0 .rRec
    (p.2.setSeq { p.2.seq with sh := setByteBit p.2.seq.sh 0 p.1 })) (sample_setSeq s _ Config.lineOw)).trans ?_
  exact spend_setSeq (sample Config.lineOw s).2
    (owSeq .rSmp .reset 0 (setByteBit sh 0 (sample Config.lineOw s).1)) _ _ rfl

theorem phaseStep_rRec : phaseStep (s.setSeq (owSeq .rRec .reset 0 sh)) =
    finish (zextBit (1 - byteBit sh 0)) (wait s.cfg.tRstrec s) := by
  have hspend := spend_setSeq s (owSeq .rRec .reset 0 sh) s.cfg.tRstrec .idle rfl
  calc phaseStep (s.setSeq (owSeq .rRec .reset 0 sh))
      = finish (zextBit (1 - byteBit sh 0)) (spend s.cfg.tRstrec .idle (s.setSeq (owSeq .rRec .reset 0 sh))) := by
        simp only [phaseStep, owSeq, setSeq_seq, spend_seq, setSeq_cfg]
    _ = _ := by rw [hspend, finish_setSeq]

end ResetRows

/-- The level kept in `sh` gives the presence (R151). -/
theorem presence_of_sh (v : Bit) : zextBit (1 - byteBit (setByteBit 0 0 v) 0) = if v = 0 then 1 else 0 := by
  revert v
  decide

/-- A single level read into `sh` is the response of OW_READ_BIT (R153). -/
theorem zextByte_setByteBit (v : Bit) : zextByte (setByteBit 0 0 v) = zextBit v := by
  revert v
  decide

/-- OW_RESET phase by phase is the reset, its sample and its recovery, then the response (R151). -/
theorem phaseRun_reset (s : State) : phaseRun 4 (s.setSeq (owSeq .rLow .reset 0 0)) =
    finish (if (sample 0 (resetLead s)).1 = 0 then 1 else 0) (wait s.cfg.tRstrec (sample 0 (resetLead s)).2) := by
  have hwait := phaseStep_rWait 0 (wait s.cfg.tRstl (owDriveLow s))
  rw [wait_cfg] at hwait
  have hrec := phaseStep_rRec (setByteBit 0 0 (sample 0 (resetLead s)).1) (sample 0 (resetLead s)).2
  have hcfg : (sample 0 (resetLead s)).2.cfg = s.cfg := ((OnLine.start 0 s).resetLead.sample 0).cfg
  rw [hcfg, presence_of_sh] at hrec
  calc phaseRun 4 (s.setSeq (owSeq .rLow .reset 0 0))
      = phaseRun 3 ((wait s.cfg.tRstl (owDriveLow s)).setSeq (owSeq .rWait .reset 0 0)) :=
        phaseRun_succ _ (phaseStep_rLow 0 s) nofun
    _ = phaseRun 2 ((resetLead s).setSeq (owSeq .rSmp .reset 0 0)) := phaseRun_succ _ hwait nofun
    _ = phaseRun 1 ((sample 0 (resetLead s)).2.setSeq
          (owSeq .rRec .reset 0 (setByteBit 0 0 (sample 0 (resetLead s)).1))) :=
        phaseRun_succ _ (phaseStep_rSmp 0 (resetLead s)) nofun
    _ = _ := phaseRun_succ 0 hrec nofun

/-- A command leaves the sequencer as it was (R9). -/
theorem seq_of_exec {i : Instr} {s t : State} (h : exec i s = .next t) : t.seq = s.seq := by
  obtain ⟨u, hu, hrun⟩ := answers_exec (released := False) (sequenced := False) i s
  obtain rfl : u = t := by simpa [hu] using h
  exact hrun.seq_eq

/-- From rest, responding leaves the sequencer where the end of the phase table puts it. -/
theorem exec_eq_finish {i : Instr} {s t : State} {data : Word} (hrest : s.seq = Sequencer.atRest)
    (h : exec i s = .next (respondOk data t)) : exec i s = .next (finish data t) := by
  have hseq : (respondOk data t).seq = Sequencer.atRest := (seq_of_exec h).trans hrest
  rw [h, finish, ← hseq]
  rfl

/-- Settles O59: the slots of a command phase by phase are its slots back to back, and the last one responds. -/
theorem oneWirePhasesAgree : Obligations.OneWirePhasesAgree := by
  intro i s hi hrest hcmd
  cases i with
  | owReset =>
    exact ⟨_, rfl, (exec_eq_finish hrest (exec_owReset s)).trans (congrArg _ (phaseRun_reset s).symm)⟩
  | owWriteBit bit =>
    have hbit : bitField s.port.cmd = bit := by simp [hcmd, encode, Instr.fieldA]
    have hrun := phaseRun_writeSlots 0 0 .wbit 0 s rfl
    rw [show slotBits .wbit s.port.cmd 0 0 1 = [bitField s.port.cmd] from rfl, hbit] at hrun
    exact ⟨_, rfl, (exec_eq_finish hrest (exec_owWriteBit bit s)).trans (congrArg _ hrun.symm)⟩
  | owReadBit =>
    have hrun := phaseRun_readSlots 0 0 .rbit 0 s rfl
    rw [show readSlots 1 0 0 s = (setByteBit 0 0 (readSlot s).1, (readSlot s).2) from rfl, zextByte_setByteBit] at hrun
    exact ⟨_, rfl, (exec_eq_finish hrest (exec_owReadBit s)).trans (congrArg _ hrun.symm)⟩
  | owWriteByte byte =>
    exact ⟨_, rfl, (exec_eq_finish hrest (exec_owWriteByte byte s)).trans
      (congrArg _ (phaseRun_writeSlots 7 0 .wbyte byte s rfl).symm)⟩
  | owReadByte =>
    exact ⟨_, rfl, (exec_eq_finish hrest (exec_owReadByte s)).trans
      (congrArg _ (phaseRun_readSlots 7 0 .rbyte 0 s rfl).symm)⟩
  | _ => exact absurd hi Bool.false_ne_true

end Sys2Proof.Machine
end

section
/-! SUPPORT. The family 43_pixel: PX_FILL, PX_WRITE by the direction of line 1, and the phase table of R212 against
PX_WRITE run whole. -/

namespace Sys2Proof.Machine

/-! ### PX_FILL (R203) -/

theorem exec_pxFill (r g b : Byte) (s : State) :
    exec (.pxFill r g b) s = .next (respondOk 0
      { s with px := { s.px with entries := List.replicate s.px.n.toNat ⟨r, g, b⟩ } }) := rfl

/-- Settles O34: the new list is `px_n` copies of the triplet. -/
theorem pxFillStoresEveryTriplet : Obligations.PxFillStoresEveryTriplet := by
  intro s r g b
  exact ⟨_, exec_pxFill r g b s, okResponse_respondOk 0 _, rfl, fun j => List.getElem?_replicate, rfl⟩

/-! ### PX_WRITE by the direction of line 1 (R204, R208, R209) -/

/-- PX_WRITE on an input line. -/
theorem exec_pxWrite_of_input {s : State} (hdir : (s.line 1).dir = .input) :
    exec .pxWrite s = .next (raise .invalidState s) := by
  simp only [exec, execPxWrite, Config.linePx, hdir]

/-- Settles O36: on an input line PX_WRITE is a `raise`. -/
theorem pxWriteNeedsAnOutput : Obligations.PxWriteNeedsAnOutput := by
  intro s hdir
  exact ⟨_, exec_pxWrite_of_input hdir, errResponse_raise .invalidState s, onlyPort_raise .invalidState s⟩

/-- Settles O35: on an output line PX_WRITE is its frame, which writes one line, and a response. -/
theorem pxWriteSendsTheFrame : Obligations.PxWriteSendsTheFrame := by
  intro s _ _ hdir
  have hexists : 1 < s.lines.length := lt_of_dir_output hdir
  obtain ⟨hwritten, hothers⟩ := line_set_and_others
    (t := respondOk 0 (pxDone s (Spec.frameEvents s.cfg s.px.entries s.px.n.toNat))) rfl hexists
  exact ⟨_, exec_pxWrite_of_output hdir hexists, okResponse_respondOk 0 _, rfl, rfl, hwritten, hothers, rfl⟩

/-! ### The frame by its numbered bits (R206)

The frame is the cells of its bits `0`, `1`, ... back to back, and the registers of the pixel sequencer say at which
number it stands. -/

/-- The frame cut into triplets is the frame cut into bits. -/
theorem emitTriplets_eq_emitBits {s : State} (h : 1 < s.lines.length) :
    emitTriplets s.px.n.toNat 0 s = emitBits (Spec.frameBits s.px.entries s.px.n.toNat) s := by
  rcases Nat.eq_zero_or_pos s.px.n.toNat with hzero | hpos
  · rw [hzero]
    rfl
  · have hne : Spec.frameBits s.px.entries s.px.n.toNat ≠ [] :=
      List.ne_nil_of_length_pos (by simp [Spec.frameBits, hpos])
    rw [emitTriplets_done _ 0 s h hpos, tripletsBits_eq, emitBits_done _ s h hne]

theorem byteBit_eq_ofBool (byte : Byte) (k : Nat) : byteBit byte k = BitVec.ofBool (byte.getLsbD k) := by
  refine BitVec.eq_of_getLsbD_eq fun i hi => ?_
  obtain rfl : i = 0 := by omega
  simp [byteBit]

/-- The order of the channels: green, red, blue (R206, R212). -/
theorem tripletChannel_ofNat (t : Triplet) {c : Nat} (hc : c < 3) :
    tripletChannel t (BitVec.ofNat 2 c) = [t.g, t.r, t.b].getD c 0 := by
  match c, hc with
  | 0, _ | 1, _ | 2, _ => rfl

/-- The sequencer at bit `j` of a frame (R206, R212). -/
def frameSeq (phase : Phase) (j : Nat) : Sequencer :=
  { Sequencer.atRest with
    phase := phase
    pxPix := BitVec.ofNat 16 (j / 24)
    pxChan := BitVec.ofNat 2 (j / 8 % 3)
    pxBit := BitVec.ofNat 3 (7 - j % 8) }

/-- A triplet of the buffer has a number that `px_pix` holds. -/
theorem pxPix_frameSeq {s : State} {j : Nat} (phase : Phase) (hj : j < 24 * s.px.n.toNat) :
    (frameSeq phase j).pxPix.toNat = j / 24 := by
  have hn := s.px.n.isLt
  exact (BitVec.toNat_ofNat _ 16).trans (Nat.mod_eq_of_lt (by omega))

theorem pxChan_frameSeq (phase : Phase) (j : Nat) : (frameSeq phase j).pxChan.toNat = j / 8 % 3 :=
  (BitVec.toNat_ofNat _ 2).trans (Nat.mod_eq_of_lt (by omega))

theorem pxBit_frameSeq (phase : Phase) (j : Nat) : (frameSeq phase j).pxBit.toNat = 7 - j % 8 :=
  (BitVec.toNat_ofNat _ 3).trans (Nat.mod_eq_of_lt (by omega))

/-- `cur` of R212 at bit `j` is the bit that R206 numbers `j`. -/
theorem curPixelBit_frameSeq {s : State} {j : Nat} (phase : Phase) (hj : j < 24 * s.px.n.toNat) :
    (s.setSeq (frameSeq phase j)).curPixelBit = Spec.frameBit s.px.entries j := by
  have hchan := tripletChannel_ofNat (s.pixel (j / 24)) (Nat.mod_lt (j / 8) (by decide : 3 > 0))
  rw [State.curPixelBit, setSeq_seq, setSeq_pixel, pxPix_frameSeq phase hj, pxBit_frameSeq, byteBit_eq_ofBool]
  exact congrArg (fun channel : Byte => BitVec.ofBool (channel.getLsbD (7 - j % 8))) hchan

/-- The three counters of R212 count the number of the bit: a bit down, else a channel up, else a triplet up. -/
theorem frameSeq_succ (j : Nat) : frameSeq .pHigh (j + 1) =
    if j % 8 < 7 then { frameSeq .pLow j with pxBit := (frameSeq .pLow j).pxBit - 1, phase := .pHigh }
    else if j / 8 % 3 < 2 then
      { frameSeq .pLow j with pxChan := (frameSeq .pLow j).pxChan + 1, pxBit := 7, phase := .pHigh }
    else { frameSeq .pLow j with pxPix := (frameSeq .pLow j).pxPix + 1, pxChan := 0, pxBit := 7, phase := .pHigh } := by
  by_cases hbit : j % 8 < 7
  · have hpix : (j + 1) / 24 = j / 24 := by omega
    have hchan : (j + 1) / 8 = j / 8 := by omega
    have hnext : 7 - j % 8 = 7 - (j + 1) % 8 + 1 := by omega
    rw [if_pos hbit]
    simp [frameSeq, hpix, hchan, hnext, BitVec.ofNat_add]
  · have hfirst : (j + 1) % 8 = 0 := by omega
    rw [if_neg hbit]
    by_cases hchan : j / 8 % 3 < 2
    · have hpix : (j + 1) / 24 = j / 24 := by omega
      have hnext : (j + 1) / 8 % 3 = j / 8 % 3 + 1 := by omega
      rw [if_pos hchan]
      simp [frameSeq, hpix, hnext, hfirst, BitVec.ofNat_add]
    · have hpix : (j + 1) / 24 = j / 24 + 1 := by omega
      have hnext : (j + 1) / 8 % 3 = 0 := by omega
      rw [if_neg hchan]
      simp [frameSeq, hpix, hnext, hfirst, BitVec.ofNat_add]

/-- From bit `j` the last column of R212 goes to bit `j + 1`, or after the last one to the latch gap. -/
theorem afterPixelBit_frameSeq {s : State} {j : Nat} (hj : j < 24 * s.px.n.toNat) :
    afterPixelBit (s.setSeq (frameSeq .pLow j)) = s.setSeq
      (if j + 1 < 24 * s.px.n.toNat then frameSeq .pHigh (j + 1) else frameSeq .pLatch j) := by
  simp only [afterPixelBit, setSeq_seq, setSeq_px, pxPix_frameSeq .pLow hj, pxChan_frameSeq, pxBit_frameSeq,
    frameSeq_succ]
  by_cases hbit : j % 8 < 7
  · rw [if_pos (by omega), if_pos (by omega), if_pos hbit]
    rfl
  · rw [if_neg (by omega), if_neg hbit]
    by_cases hchan : j / 8 % 3 < 2
    · rw [if_pos hchan, if_pos (by omega), if_pos hchan]
      rfl
    · rw [if_neg hchan, if_neg hchan]
      by_cases hpix : j / 24 + 1 < s.px.n.toNat
      · rw [if_pos hpix, if_pos (by omega)]
        rfl
      · rw [if_neg hpix, if_neg (by omega)]
        rfl

/-! ### The phase table of R212 against PX_WRITE run whole (R213) -/

theorem phaseRun_of_idle {s : State} (k : Nat) (h : s.seq.phase = .idle) : phaseRun k s = s := by
  cases k with
  | zero => rfl
  | succ k => exact if_pos h

/-- A running command does its phase, then the rest of the run. -/
theorem phaseRun_succ_of_busy {s : State} (k : Nat) (h : s.seq.phase ≠ .idle) :
    phaseRun (k + 1) s = phaseRun k (phaseStep s) := if_neg h

section PixelRows
variable {j : Nat} (s : State)

/-! The rows of R212. -/

theorem phaseStep_pHigh (hj : j < 24 * s.px.n.toNat) : phaseStep (s.setSeq (frameSeq .pHigh j)) =
    (wait (cellHigh s.cfg (Spec.frameBit s.px.entries j)) (drive Config.linePx .output 1 s)).setSeq
      (frameSeq .pLow j) := by
  rw [← curPixelBit_frameSeq .pHigh hj]
  exact spend_setSeq (drive Config.linePx .output 1 s) _ _ _ rfl

theorem phaseStep_pLow (hj : j < 24 * s.px.n.toNat) : phaseStep (s.setSeq (frameSeq .pLow j)) =
    afterPixelBit ((wait (cellLow s.cfg (Spec.frameBit s.px.entries j))
      (drive Config.linePx .output 0 s)).setSeq (frameSeq .pLow j)) := by
  rw [← curPixelBit_frameSeq .pLow hj]
  exact congrArg afterPixelBit (spend_setSeq (drive Config.linePx .output 0 s) (frameSeq .pLow j) _ .pLow rfl)

theorem phaseStep_pLatch {q : Sequencer} (hphase : q.phase = .pLatch) (hcnt : q.cnt = 0) :
    phaseStep (s.setSeq q) = finish 0 (latchGap s) := by
  have hspend := spend_setSeq (drive Config.linePx .output 0 s) q s.cfg.tLatch .pLatch hcnt
  simp only [phaseStep, setSeq_seq, hphase]
  exact (congrArg (finish 0) hspend).trans (finish_setSeq _ _ 0)

/-- The latch gap ends the run. -/
theorem phaseRun_pLatch {q : Sequencer} (hphase : q.phase = .pLatch) (hcnt : q.cnt = 0) :
    phaseRun 1 (s.setSeq q) = finish 0 (latchGap s) :=
  (phaseRun_succ_of_busy 0 (by simp [hphase])).trans (phaseStep_pLatch s hphase hcnt)

end PixelRows

@[simp] theorem emitBit_px (v : Bit) (s : State) : (emitBit v s).px = s.px := by simp [emitBit]

/-- A bit cell is its two phases (R205). -/
theorem phaseRun_emitBit {j : Nat} (k : Nat) (s : State) (hj : j < 24 * s.px.n.toNat) :
    phaseRun (k + 2) (s.setSeq (frameSeq .pHigh j)) = phaseRun k
      ((emitBit (Spec.frameBit s.px.entries j) s).setSeq
        (if j + 1 < 24 * s.px.n.toNat then frameSeq .pHigh (j + 1) else frameSeq .pLatch j)) := by
  have hrise := phaseStep_pHigh s hj
  have hfall := phaseStep_pLow (j := j) (wait (cellHigh s.cfg (Spec.frameBit s.px.entries j))
    (drive Config.linePx .output 1 s)) (by simpa using hj)
  simp only [wait_cfg, wait_px, drive_cfg, drive_px] at hfall
  have hnext := afterPixelBit_frameSeq (s := emitBit (Spec.frameBit s.px.entries j) s) (j := j) (by simpa using hj)
  rw [emitBit_px] at hnext
  calc phaseRun (k + 2) (s.setSeq (frameSeq .pHigh j))
      = phaseRun (k + 1) ((wait (cellHigh s.cfg (Spec.frameBit s.px.entries j))
          (drive Config.linePx .output 1 s)).setSeq (frameSeq .pLow j)) :=
        (phaseRun_succ_of_busy _ (by simp [frameSeq])).trans (congrArg _ hrise)
    _ = phaseRun k (afterPixelBit ((emitBit (Spec.frameBit s.px.entries j) s).setSeq (frameSeq .pLow j))) :=
        (phaseRun_succ_of_busy _ (by simp [frameSeq])).trans (congrArg _ hfall)
    _ = _ := congrArg _ hnext

/-- The bits from number `j` on, phase by phase, are their cells back to back, the latch gap and the response (R204). -/
theorem phaseRun_emitBits (m j : Nat) (s : State) (hm : j + (m + 1) = 24 * s.px.n.toNat) :
    phaseRun (2 * (m + 1) + 1) (s.setSeq (frameSeq .pHigh j)) =
      finish 0 (latchGap (emitBits ((List.range' j (m + 1)).map (Spec.frameBit s.px.entries)) s)) := by
  induction m generalizing j s with
  | zero =>
    rw [show 2 * (0 + 1) + 1 = 1 + 2 from rfl, phaseRun_emitBit 1 s (by omega), if_neg (by omega),
      phaseRun_pLatch _ rfl rfl]
    rfl
  | succ m ih =>
    rw [show 2 * (m + 1 + 1) + 1 = 2 * (m + 1) + 1 + 2 from rfl, phaseRun_emitBit _ s (by omega), if_pos (by omega),
      ih (j + 1) _ (by rw [emitBit_px]; omega), emitBit_px]
    rfl

/-- Where a frame of `n` triplets begins (R212): at its first bit, or at once in the latch gap. -/
def firstPixelSeq (n : BitVec 16) : Sequencer :=
  if n = 0 then { Sequencer.atRest with phase := .pLatch } else frameSeq .pHigh 0

/-- The row `IDLE` for PX_WRITE on an output line (R212). -/
theorem startCommand_pxWrite_of_output {s : State} (hdir : (s.line 1).dir = .output) :
    startCommand .pxWrite s = .next (s.setSeq (firstPixelSeq s.px.n)) := by
  simp only [startCommand, startPixel, Config.linePx, hdir, firstPixelSeq, apply_ite s.setSeq]
  rfl

/-- PX_WRITE phase by phase is its frame, the latch gap and the response (R204). -/
theorem phaseRun_pxWrite (s : State) :
    phaseRun (phaseCount .pxWrite s) (s.setSeq (firstPixelSeq s.px.n)) =
      finish 0 (latchGap (emitBits (Spec.frameBits s.px.entries s.px.n.toNat) s)) := by
  unfold firstPixelSeq
  by_cases hn : s.px.n = 0
  · rw [if_pos hn, phaseCount, hn]
    exact phaseRun_pLatch s rfl rfl
  · have hpos : 0 < s.px.n.toNat := Nat.pos_of_ne_zero fun h0 => hn (BitVec.eq_of_toNat_eq h0)
    obtain ⟨m, hm⟩ : ∃ m, 24 * s.px.n.toNat = m + 1 := ⟨24 * s.px.n.toNat - 1, by omega⟩
    rw [if_neg hn, phaseCount, show 48 * s.px.n.toNat + 1 = 2 * (m + 1) + 1 by omega,
      phaseRun_emitBits m 0 s (by omega), Spec.frameBits, hm, List.range_eq_range']

/-- Settles O60: on an input line both views raise; on an output line the phases are the frame bit by bit, which is the
frame triplet by triplet. -/
theorem pixelPhasesAgree : Obligations.PixelPhasesAgree := by
  intro s hrest
  cases hdir : (s.line 1).dir with
  | input =>
    have hstart : startCommand .pxWrite s = .next (raise .invalidState s) := by
      simp only [startCommand, startPixel, Config.linePx, hdir]
    have hidle : (raise .invalidState s).seq.phase = .idle := congrArg Sequencer.phase hrest
    exact ⟨_, hstart, (exec_pxWrite_of_input hdir).trans (congrArg _ (phaseRun_of_idle _ hidle).symm)⟩
  | output =>
    have hexec : exec .pxWrite s = .next (respondOk 0 (latchGap (emitTriplets s.px.n.toNat 0 s))) := by
      simp only [exec, execPxWrite, Config.linePx, hdir]
    refine ⟨_, startCommand_pxWrite_of_output hdir, ?_⟩
    rw [exec_eq_finish hrest hexec, phaseRun_pxWrite, emitTriplets_eq_emitBits (lt_of_dir_output hdir)]

end Sys2Proof.Machine
end

section
/-! SUPPORT. The family 44_servo: the duty value by the place of the operand, its bounds and its order, and the two
commands as its low 32 bits. -/

namespace Sys2Proof.Machine

/-! ### `clamp` (R10) -/

theorem clamp_of_le_lo {x lo hi : Int} (hrange : lo ≤ hi) (h : x ≤ lo) : clamp x lo hi = lo := by
  grind [clamp]

theorem clamp_of_mem {x lo hi : Int} (hlo : lo ≤ x) (hhi : x ≤ hi) : clamp x lo hi = x := by
  rw [clamp, if_neg (not_lt.2 hlo), if_neg (not_lt.2 hhi)]

theorem clamp_of_hi_le {x lo hi : Int} (hrange : lo ≤ hi) (h : hi ≤ x) : clamp x lo hi = hi := by
  grind [clamp]

theorem clamp_mono {x y lo hi : Int} (hrange : lo ≤ hi) (h : x ≤ y) : clamp x lo hi ≤ clamp y lo hi := by
  grind [clamp]

/-! ### The duty value over the integers (R230, R231, R232) -/

section Duty
variable {P : Config.Params} {x y : Int} {top : Nat}

theorem dutyOf_of_nonpos (h : x ≤ 0) : dutyOf P x top = 0 := by
  rw [dutyOf, clamp_of_le_lo (Int.natCast_nonneg top) h, zero_mul, Int.zero_ediv]

theorem dutyOf_of_mem (hlo : 0 ≤ x) (hhi : x ≤ top) : dutyOf P x top = x * P.maxDuty / top := by
  rw [dutyOf, clamp_of_mem hlo hhi]

/-- The scale cancels at the top of the range: `MAX_DUTY` is hit exactly (R232). -/
theorem dutyOf_of_top_le (htop : 0 < top) (h : top ≤ x) : dutyOf P x top = P.maxDuty := by
  rw [dutyOf, clamp_of_hi_le (Int.natCast_nonneg top) h, Int.mul_ediv_cancel_left _ (by omega)]

/-- `clamp`, the product with `MAX_DUTY` and the floor quotient are each non-decreasing (R232). -/
theorem dutyOf_mono (htop : 0 < top) (h : x ≤ y) : dutyOf P x top ≤ dutyOf P y top :=
  have hclamp : clamp x 0 top ≤ clamp y 0 top := clamp_mono (Int.natCast_nonneg top) h
  Int.ediv_le_ediv (Int.natCast_pos.2 htop)
    (Int.mul_le_mul_of_nonneg_right hclamp (Int.natCast_nonneg P.maxDuty))

/-- Monotone, hence at least the value at an operand that is not positive. -/
theorem dutyOf_nonneg (htop : 0 < top) : 0 ≤ dutyOf P x top :=
  calc (0 : Int) = dutyOf P (min x 0) top := (dutyOf_of_nonpos (min_le_right x 0)).symm
    _ ≤ dutyOf P x top := dutyOf_mono htop (min_le_left x 0)

/-- Monotone, hence at most the value at an operand that is not below the top. -/
theorem dutyOf_le_maxDuty (htop : 0 < top) : dutyOf P x top ≤ P.maxDuty :=
  calc dutyOf P x top ≤ dutyOf P (max x top) top := dutyOf_mono htop (le_max_left x top)
    _ = P.maxDuty := dutyOf_of_top_le htop (le_max_right x top)

end Duty

/-! ### The duty value as the data of a response -/

/-- The data of either servo command, whose range ends at `top`: 180 degrees or `PERIOD_US` (R230, R231). -/
def dutyWord (P : Config.Params) (x : Word) (top : Nat) : Word := u32 (dutyOf P x.toInt top)

theorem exec_svAngle (x : Word) (s : State) :
    exec (.svAngle x) s = .next (respondOk (dutyWord s.cfg x 180) s) := rfl

theorem exec_svPulse (x : Word) (s : State) :
    exec (.svPulse x) s = .next (respondOk (dutyWord s.cfg x s.cfg.periodUs) s) := rfl

/-- The constraints of R6 that a duty value rests on: `MAX_DUTY` fits a word, and the period is not empty. -/
theorem duty_bounds_of_valid {P : Config.Params} (hv : P.valid) : P.maxDuty < 2 ^ 32 ∧ 0 < P.periodUs := by
  obtain ⟨-, -, -, -, -, -, -, -, -, -, -, -, ⟨-, hduty⟩, ⟨hperiod, -⟩⟩ := hv
  exact ⟨by omega, hperiod⟩

/-- A signed operand that is not negative is the number its word holds. -/
theorem toInt_eq_toNat_of_nonneg {x : Word} (h : 0 ≤ x.toInt) : x.toInt = x.toNat :=
  BitVec.toInt_eq_toNat_of_msb (BitVec.msb_eq_toInt.trans (decide_eq_false h.not_gt))

section Word
variable {P : Config.Params} {top : Nat} (hv : P.valid) (htop : 0 < top) (x y : Word)
include hv htop

/-- No duty value is too large for the 32 bits of the response. -/
theorem dutyWord_toNat_cast : ((dutyWord P x top).toNat : Int) = dutyOf P x.toInt top := by
  obtain ⟨hfits, -⟩ := duty_bounds_of_valid hv
  have hnonneg := dutyOf_nonneg (P := P) (x := x.toInt) htop
  have hle := dutyOf_le_maxDuty (P := P) (x := x.toInt) htop
  rw [dutyWord, u32, BitVec.toNat_ofInt]
  omega

theorem dutyWord_toNat_of_nonpos (h : x.toInt ≤ 0) : (dutyWord P x top).toNat = 0 := by
  exact_mod_cast (dutyWord_toNat_cast hv htop x).trans (dutyOf_of_nonpos h)

theorem dutyWord_toNat_of_mem (hlo : 0 ≤ x.toInt) (hhi : x.toInt ≤ top) :
    (dutyWord P x top).toNat = x.toNat * P.maxDuty / top := by
  have hduty := (dutyWord_toNat_cast hv htop x).trans (dutyOf_of_mem hlo hhi)
  rw [toInt_eq_toNat_of_nonneg hlo] at hduty
  exact_mod_cast hduty

theorem dutyWord_toNat_of_top_le (h : top ≤ x.toInt) : (dutyWord P x top).toNat = P.maxDuty := by
  exact_mod_cast (dutyWord_toNat_cast hv htop x).trans (dutyOf_of_top_le htop h)

theorem dutyWord_toNat_mono (h : x.toInt ≤ y.toInt) : (dutyWord P x top).toNat ≤ (dutyWord P y top).toNat := by
  have hmono := dutyOf_mono (P := P) htop h
  rw [← dutyWord_toNat_cast hv htop x, ← dutyWord_toNat_cast hv htop y] at hmono
  exact_mod_cast hmono

theorem dutyWord_toNat_le_maxDuty : (dutyWord P x top).toNat ≤ P.maxDuty := by
  have hle := dutyOf_le_maxDuty (P := P) (x := x.toInt) htop
  rw [← dutyWord_toNat_cast hv htop x] at hle
  exact_mod_cast hle

end Word

/-- Settles O39: either command answers with `dutyWord`, by the place of the operand in its range. -/
theorem servoCommandsScaleAndClamp : Obligations.ServoCommandsScaleAndClamp := by
  intro s x hv
  obtain ⟨-, hperiod⟩ := duty_bounds_of_valid hv
  have hangle : 0 < 180 := by decide
  exact ⟨⟨_, _, exec_svAngle x s, onlyPort_respondOk _ s, okResponse_respondOk _ s,
      fun hneg => dutyWord_toNat_of_nonpos hv hangle x hneg.le,
      fun ⟨hlo, hhi⟩ => dutyWord_toNat_of_mem hv hangle x hlo hhi,
      fun hover => dutyWord_toNat_of_top_le hv hangle x hover.le⟩,
    ⟨_, _, exec_svPulse x s, onlyPort_respondOk _ s, okResponse_respondOk _ s,
      fun hneg => dutyWord_toNat_of_nonpos hv hperiod x hneg.le,
      fun ⟨hlo, hhi⟩ => dutyWord_toNat_of_mem hv hperiod x hlo hhi,
      fun hover => dutyWord_toNat_of_top_le hv hperiod x hover.le⟩⟩

/-- Settles O40: `dutyWord` is monotone and bounded, and its first and last case hold at the ends of the range. -/
theorem servoIsMonotoneAndBounded : Obligations.ServoIsMonotoneAndBounded := by
  intro s x y hv hle
  obtain ⟨-, hperiod⟩ := duty_bounds_of_valid hv
  have hangle : 0 < 180 := by decide
  exact ⟨⟨_, _, exec_svAngle x s, exec_svAngle y s, rfl, rfl,
      dutyWord_toNat_mono hv hangle x y hle, dutyWord_toNat_le_maxDuty hv hangle y,
      fun hzero => dutyWord_toNat_of_nonpos hv hangle x hzero.le,
      fun htop => dutyWord_toNat_of_top_le hv hangle x htop.ge⟩,
    ⟨_, _, exec_svPulse x s, exec_svPulse y s, rfl, rfl,
      dutyWord_toNat_mono hv hperiod x y hle, dutyWord_toNat_le_maxDuty hv hperiod y,
      fun hzero => dutyWord_toNat_of_nonpos hv hperiod x hzero.le,
      fun htop => dutyWord_toNat_of_top_le hv hperiod x htop.ge⟩⟩

/-- An operand that is not positive answers 0. -/
theorem exec_svAngle_of_nonpos {x : Word} (h : x.toInt ≤ 0) (s : State) :
    exec (.svAngle x) s = .next (respondOk 0 s) := by
  rw [exec_svAngle, dutyWord, dutyOf_of_nonpos h]
  rfl

/-- An operand of 180 degrees or more answers `MAX_DUTY`. -/
theorem exec_svAngle_of_top_le {x : Word} (h : 180 ≤ x.toInt) (s : State) :
    exec (.svAngle x) s = .next (respondOk (u32 s.cfg.maxDuty) s) := by
  rw [exec_svAngle, dutyWord, dutyOf_of_top_le (by decide) h]

/-- Settles O41: -10 and 0 are not positive, 200 and 180 are not below 180. -/
theorem servoClampsTheSpecExamples : Obligations.ServoClampsTheSpecExamples := by
  intro s hv
  obtain ⟨hfits, -⟩ := duty_bounds_of_valid hv
  refine ⟨⟨_, exec_svAngle_of_nonpos (by decide) s, exec_svAngle_of_nonpos (by decide) s,
      okResponse_respondOk 0 s⟩,
    ⟨_, _, exec_svAngle_of_top_le (by decide) s, exec_svAngle_of_top_le (by decide) s,
      okResponse_respondOk _ s, ?_⟩⟩
  rw [u32, BitVec.ofInt_natCast, BitVec.toNat_ofNat, Nat.mod_eq_of_lt hfits]

end Sys2Proof.Machine
end

section
/-! SUPPORT. The family 45_debouncer: DB_INIT, one observation by whether it is committed, and runs of observations that
are ignored. -/

namespace Sys2Proof.Machine

/-! ### Construction (R245) -/

theorem exec_dbInit (level : Bit) (thr : BitVec 23) (now : Word) (s : State) :
    exec (.dbInit level thr now) s =
      .next (respondOk 0 { s with db := { acc := level, last := tickOperand s.cfg now, thr := thr } }) := rfl

/-- Settles O42: the registers are the operands, the time as a Tick. -/
theorem dbInitConstructs : Obligations.DbInitConstructs := by
  intro s level thr now hv
  exact ⟨_, exec_dbInit level thr now s, okResponse_respondOk 0 _, rfl, tickOfNat_toNat hv _, rfl, rfl⟩

/-! ### One observation (R246) -/

section Observation
variable {P : Config.Params} {level : Bit} {now : Word} {d : Debouncer}

/-- The comparison of R246 on the numbers of the operands: the bits of `now` above `W` do not count. -/
theorem tdiff_tickOperand_left (hv : P.valid) (now last : Word) :
    (tdiff P (tickOperand P now) last).toNat = Spec.tickDiff P now.toNat last.toNat := by
  rw [tdiff_toNat hv, tickOperand, tickOfNat_toNat hv, tickDiff_mod_left]

/-- A level that differs, strictly past the threshold, is committed. -/
theorem observe_of_past (hv : P.valid) (hne : level ≠ d.acc)
    (hpast : d.thr.toNat < Spec.tickDiff P now.toNat d.last.toNat) :
    observe P level (tickOperand P now) d = { d with acc := level, last := tickOperand P now } := by
  rw [observe, tdiff_tickOperand_left hv]
  exact if_pos ⟨hne, hpast⟩

/-- The accepted level, or any level up to the threshold, is ignored. -/
theorem observe_of_ignored (hv : P.valid)
    (h : level = d.acc ∨ Spec.tickDiff P now.toNat d.last.toNat ≤ d.thr.toNat) :
    observe P level (tickOperand P now) d = d := by
  rw [observe, tdiff_tickOperand_left hv]
  refine if_neg fun ⟨hne, hpast⟩ => ?_
  rcases h with heq | hle
  · exact hne heq
  · exact hpast.not_ge hle

end Observation

theorem exec_dbRead (level : Bit) (now : Word) (s : State) :
    exec (.dbRead level now) s =
      .next (respondOk (zextBit (observe s.cfg level (tickOperand s.cfg now) s.db).acc)
        { s with db := observe s.cfg level (tickOperand s.cfg now) s.db }) := rfl

/-- Settles O43: the debouncer after DB_READ is `observe`, by its two cases. -/
theorem dbReadFiltersOneObservation : Obligations.DbReadFiltersOneObservation := by
  intro s level now hv
  refine ⟨_, exec_dbRead level now s, ?_, ?_, fun hignored => observe_of_ignored hv hignored, rfl⟩
  · rw [zextBit_eq]
    exact okResponse_respondOk _ _
  · rintro ⟨hne, hpast⟩
    rw [respondOk_db, observe_of_past hv hne hpast]
    exact ⟨rfl, tickOfNat_toNat hv _, rfl⟩

/-! ### Runs of observations (R247) -/

theorem runAll_cons_of_next {i : Instr} {is : List Instr} {s t : State} (h : exec i s = .next t) :
    Spec.runAll (i :: is) s = Spec.runAll is t := by
  rw [Spec.runAll, h]

/-- Commands that each leave a state as it is leave it so in a row. -/
theorem runAll_of_fixed {s : State} {is : List Instr} (h : ∀ i ∈ is, exec i s = .next s) :
    Spec.runAll is s = some s := by
  induction is with
  | nil => rfl
  | cons i is ih =>
    obtain ⟨hhead, htail⟩ := List.forall_mem_cons.1 h
    rw [runAll_cons_of_next hhead, ih htail]

section Runs
variable {s : State} {level : Bit} {now : Word}

/-- An observation that commits: the new level is in force in its own response. -/
theorem exec_dbRead_of_past (hv : s.cfg.valid) (hne : level ≠ s.db.acc)
    (hpast : s.db.thr.toNat < Spec.tickDiff s.cfg now.toNat s.db.last.toNat) :
    exec (.dbRead level now) s =
      .next (respondOk (zextBit level) { s with db := { s.db with acc := level, last := tickOperand s.cfg now } }) := by
  rw [exec_dbRead, observe_of_past hv hne hpast]

/-- An observation that is ignored changes nothing but the response. -/
theorem exec_dbRead_of_ignored (hv : s.cfg.valid)
    (h : level = s.db.acc ∨ Spec.tickDiff s.cfg now.toNat s.db.last.toNat ≤ s.db.thr.toNat) :
    exec (.dbRead level now) s = .next (respondOk (zextBit s.db.acc) s) := by
  rw [exec_dbRead, observe_of_ignored hv h]

/-- Once the accepted level stands in the response, a run of ignored observations changes nothing at all: each gives the
response that is there. -/
theorem runAll_dbRead_of_answered (obs : List (Bit × Word)) (hv : s.cfg.valid)
    (h : ∀ o ∈ obs, o.1 = s.db.acc ∨ Spec.tickDiff s.cfg o.2.toNat s.db.last.toNat ≤ s.db.thr.toNat) :
    Spec.runAll (obs.map fun o => .dbRead o.1 o.2) (respondOk (zextBit s.db.acc) s) =
      some (respondOk (zextBit s.db.acc) s) := by
  refine runAll_of_fixed (List.forall_mem_map.2 fun o ho => ?_)
  calc exec (.dbRead o.1 o.2) (respondOk (zextBit s.db.acc) s)
      = .next (respondOk (zextBit s.db.acc) (respondOk (zextBit s.db.acc) s)) := exec_dbRead_of_ignored hv (h o ho)
    _ = .next (respondOk (zextBit s.db.acc) s) := by rw [respondOk_respondOk]

end Runs

/-- Settles O44: the first observation brings the accepted level into the response, and the others change nothing. -/
theorem debouncerHoldsOff : Obligations.DebouncerHoldsOff := by
  intro obs s hv hwithin
  cases obs with
  | nil => exact ⟨s, rfl, rfl, fun hne => absurd rfl hne⟩
  | cons o obs =>
    obtain ⟨hfirst, hrest⟩ := List.forall_mem_cons.1 hwithin
    refine ⟨respondOk (zextBit s.db.acc) s, ?_, rfl, fun _ => zextBit_eq _⟩
    rw [List.map_cons, runAll_cons_of_next (exec_dbRead_of_ignored hv (.inr hfirst))]
    exact runAll_dbRead_of_answered obs hv fun p hp => .inr (hrest p hp)

/-- Settles O45: the commit answers with the new level, which is the accepted one for all later observations. -/
theorem debouncerAcceptsASustainedChangeOnce : Obligations.DebouncerAcceptsASustainedChangeOnce := by
  intro s level now later hv hne hpast
  refine ⟨_, _, exec_dbRead_of_past hv hne hpast, rfl, tickOfNat_toNat hv _, ?_, rfl, zextBit_eq level⟩
  have hrun := runAll_dbRead_of_answered
    (s := { s with db := { s.db with acc := level, last := tickOperand s.cfg now } })
    (later.map fun n => (level, n)) hv (List.forall_mem_map.2 fun _ _ => .inl rfl)
  rwa [List.map_map] at hrun

end Sys2Proof.Machine
end

section
/-! SUPPORT. The family 46_moving_average: MA_ADD keeps the last samples, a run of adds from an empty window, and the
mean between the least and the greatest sample. -/

namespace Sys2Proof.Machine

/-! ### Adds (R263, R267) -/

theorem exec_maAdd (x : Word) (s : State) :
    exec (.maAdd x) s =
      .next (respondOk 0 { s with ma := { s.ma with buf := addSample s.ma.size.toNat s.ma.buf x } }) := rfl

section Window
variable {size : Nat} {buf : List Word}

theorem addSample_of_lt (h : buf.length < size) (x : Word) : addSample size buf x = buf ++ [x] := by
  rw [addSample, List.length_append, List.length_singleton, if_neg (by omega)]

/-- A full window; with size 0 the sample that goes is the one just appended. -/
theorem addSample_of_full (h : buf.length = size) (x : Word) : addSample size buf x = (buf ++ [x]).drop 1 := by
  rw [addSample, List.length_append, List.length_singleton, if_pos (by omega), List.drop_one]

end Window

/-- Settles O47: the two cases of `addSample`. -/
theorem maAddAppendsAndEvicts : Obligations.MaAddAppendsAndEvicts := by
  intro s x _
  exact ⟨_, exec_maAdd x s, okResponse_respondOk 0 _, rfl, fun hroom => addSample_of_lt hroom x,
    fun hfull => addSample_of_full hfull x, rfl⟩

/-- The window that holds the last samples of `xs` still does so after one more add. -/
theorem addSample_rtake (size : Nat) (xs : List Word) (x : Word) :
    addSample size (xs.rtake size) x = (xs ++ [x]).rtake size := by
  rcases Nat.lt_or_ge xs.length size with hroom | hfull
  · have hall : xs.rtake size = xs := by rw [List.rtake, Nat.sub_eq_zero_of_le hroom.le, List.drop_zero]
    rw [hall, addSample_of_lt hroom, List.rtake, List.length_append, List.length_singleton,
      Nat.sub_eq_zero_of_le hroom, List.drop_zero]
  · have hlength : (xs.rtake size).length = size := by rw [List.rtake, List.length_drop]; omega
    rw [addSample_of_full hlength, List.rtake, ← List.drop_append_of_le_length (Nat.sub_le _ _), List.drop_drop,
      List.rtake, List.length_append, List.length_singleton, Nat.sub_add_comm hfull]

/-- R267 on the buffer alone. -/
theorem foldl_addSample_nil (size : Nat) (xs : List Word) : xs.foldl (addSample size) [] = xs.rtake size := by
  induction xs using List.reverseRecOn with
  | nil => rw [List.rtake_nil, List.foldl_nil]
  | append_singleton xs x ih => rw [List.foldl_concat, ih, addSample_rtake]

/-- A run of adds folds `addSample` over the samples and keeps the size. -/
theorem runAll_maAdd (xs : List Word) (s : State) :
    ∃ t, Spec.runAll (xs.map Instr.maAdd) s = some t ∧
      t.ma = { s.ma with buf := xs.foldl (addSample s.ma.size.toNat) s.ma.buf } := by
  induction xs generalizing s with
  | nil => exact ⟨s, rfl, rfl⟩
  | cons x xs ih =>
    rw [List.map_cons, runAll_cons_of_next (exec_maAdd x s)]
    exact ih _

/-- Settles O49: MA_INIT gives the empty window, and the adds fold `addSample` from there. -/
theorem windowHoldsTheLastSamples : Obligations.WindowHoldsTheLastSamples := by
  intro s n xs hle
  have hinit := (exec_maInit n s).trans (if_pos hle)
  obtain ⟨t, hrun, hma⟩ := runAll_maAdd xs (respondOk 0 { s with ma := { size := n, buf := [] } })
  refine ⟨t, (runAll_cons_of_next hinit).trans hrun, ?_, congrArg MovingAverage.size hma⟩
  calc t.ma.buf = xs.foldl (addSample n.toNat) [] := congrArg MovingAverage.buf hma
    _ = xs.drop (xs.length - n.toNat) := foldl_addSample_nil n.toNat xs
    _ = xs.drop (xs.length - min xs.length n.toNat) := by rw [tsub_min]

/-! ### The mean (R265) -/

theorem exec_maAvg (s : State) : exec .maAvg s = .next (respondOk (u32 (meanOf s.ma.buf)) s) := rfl

theorem meanOf_nil : meanOf [] = 0 := rfl

section Mean
variable {buf : List Word} (h : buf ≠ [])
include h

theorem meanOf_of_ne_nil : meanOf buf = (buf.map BitVec.toInt).sum.tdiv buf.length :=
  if_neg (mt List.length_eq_zero_iff.1 h)

theorem natAbs_meanOf : (meanOf buf).natAbs = (buf.map BitVec.toInt).sum.natAbs / buf.length := by
  rw [meanOf_of_ne_nil h]
  exact Int.natAbs_tdiv _ _

theorem length_cast_pos : (0 : Int) < buf.length := Int.natCast_pos.2 (List.length_pos_iff.2 h)

theorem le_meanOf_of_mul_le {b : Int} (hsum : buf.length * b ≤ (buf.map BitVec.toInt).sum) : b ≤ meanOf buf :=
  calc b = (buf.length * b).tdiv buf.length := (Int.mul_tdiv_cancel_left b (length_cast_pos h).ne').symm
    _ ≤ (buf.map BitVec.toInt).sum.tdiv buf.length := Int.tdiv_le_tdiv (length_cast_pos h) hsum
    _ = meanOf buf := (meanOf_of_ne_nil h).symm

theorem meanOf_le_of_le_mul {b : Int} (hsum : (buf.map BitVec.toInt).sum ≤ buf.length * b) : meanOf buf ≤ b :=
  calc meanOf buf = (buf.map BitVec.toInt).sum.tdiv buf.length := meanOf_of_ne_nil h
    _ ≤ (buf.length * b).tdiv buf.length := Int.tdiv_le_tdiv (length_cast_pos h) hsum
    _ = b := Int.mul_tdiv_cancel_left b (length_cast_pos h).ne'

/-- Bounds on every sample bound the mean. -/
theorem meanOf_mem_of_forall {lo hi : Int} (hall : ∀ x, x ∈ buf → lo ≤ x.toInt ∧ x.toInt ≤ hi) :
    lo ≤ meanOf buf ∧ meanOf buf ≤ hi := by
  have hlo := (buf.map BitVec.toInt).card_nsmul_le_sum lo (List.forall_mem_map.2 fun x hx => (hall x hx).1)
  have hhi := (buf.map BitVec.toInt).sum_le_card_nsmul hi (List.forall_mem_map.2 fun x hx => (hall x hx).2)
  rw [List.length_map, nsmul_eq_mul] at hlo hhi
  exact ⟨le_meanOf_of_mul_le h hlo, meanOf_le_of_le_mul h hhi⟩

/-- The mean lies between signed 32-bit samples, so the response loses nothing. -/
theorem u32_meanOf_toInt : (u32 (meanOf buf)).toInt = meanOf buf := by
  obtain ⟨hlo, hhi⟩ := meanOf_mem_of_forall h (lo := -2 ^ 31) (hi := 2 ^ 31 - 1)
    fun x _ => ⟨x.le_toInt, Int.le_sub_one_of_lt x.toInt_lt⟩
  exact BitVec.toInt_ofInt_eq_self (by decide) hlo (Int.lt_of_le_sub_one hhi)

end Mean

/-- Settles O48: the response is the mean itself, with the magnitude, the sign and the bounds of the quotient. -/
theorem maAvgIsTheMeanTowardZero : Obligations.MaAvgIsTheMeanTowardZero := by
  intro s
  refine ⟨_, _, exec_maAvg s, onlyPort_respondOk _ s, okResponse_respondOk _ s, fun hnil => ?empty, fun hne => ?held⟩
  case empty =>
    rw [hnil, meanOf_nil]
    rfl
  case held =>
    rw [u32_meanOf_toInt hne]
    exact ⟨natAbs_meanOf hne,
      fun hsum => le_meanOf_of_mul_le hne (by rwa [mul_zero]),
      fun hsum => meanOf_le_of_le_mul hne (by rwa [mul_zero]),
      fun lo hi hall => meanOf_mem_of_forall hne hall⟩

end Sys2Proof.Machine
end

section
/-! SUPPORT. The families 60_exceptions and 70_reset_and_hazards: how a command replies, by its operands and the direction of
its line, and the reset inside a command. -/

namespace Sys2Proof.Machine

/-! ### How a command replies (R88, R281, R282, R283) -/

/-- The line is in the wrong direction for the command: the three cases of R281. -/
def WrongDirection (s : State) : Instr → Prop
  | .dlWrite line _ => (s.line line.toNat).dir = .input
  | .dlRead line => (s.line line.toNat).dir = .output
  | .pxWrite => (s.line 1).dir = .input
  | _ => False

theorem wrongDirection_iff (i : Instr) (s : State) : WrongDirection s i ↔
    (∃ l v, i = .dlWrite l v ∧ (s.line l.toNat).dir = .input) ∨
    (∃ l, i = .dlRead l ∧ (s.line l.toNat).dir = .output) ∨
    (i = .pxWrite ∧ (s.line 1).dir = .input) := by
  cases i <;> simp [WrongDirection]

/-- The three replies: `OK` from whatever state the command leaves, or an exception from the state it was accepted in. -/
inductive Reply (i : Instr) (s : State) : State → Prop
  | ok (data : Word) (t : State) (hlegal : i.wellFormed s.cfg = true) (hdir : ¬ WrongDirection s i) :
      Reply i s (respondOk data t)
  | invalidState (hlegal : i.wellFormed s.cfg = true) (hdir : WrongDirection s i) : Reply i s (raise .invalidState s)
  | illegal (hillegal : i.wellFormed s.cfg = false) : Reply i s (raise .illegal s)

/-- The command's outcome is one of its replies. -/
def Replies (i : Instr) (s : State) : Prop := ∃ t, exec i s = .next t ∧ Reply i s t

/-- Operands out of the ranges of R88 raise `ILLEGAL` before anything else (R90). -/
theorem exec_of_not_wellFormed {i : Instr} {s : State} (h : i.wellFormed s.cfg = false) :
    exec i s = .next (raise .illegal s) := by
  cases i with
  | dlSetDir | dlSetPull | dlWrite | dlRead | pxInit | maInit => exact if_neg (ne_true_of_eq_false h)
  | _ => exact absurd h.symm Bool.false_ne_true

section Legal
variable {i : Instr} {s t : State} {data : Word}

theorem replies_ok (hexec : exec i s = .next (respondOk data t)) (hlegal : i.wellFormed s.cfg = true)
    (hdir : ¬ WrongDirection s i) : Replies i s :=
  ⟨_, hexec, .ok data t hlegal hdir⟩

theorem replies_invalidState (hexec : exec i s = .next (raise .invalidState s)) (hlegal : i.wellFormed s.cfg = true)
    (hdir : WrongDirection s i) : Replies i s :=
  ⟨_, hexec, .invalidState hlegal hdir⟩

/-- A legal DL_WRITE replies by the direction of its line (R132). -/
theorem replies_dlWrite {line : Byte} (level : Bit) (hline : lineLegal s.cfg line = true) :
    Replies (.dlWrite line level) s := by
  have hexec := exec_dlWrite_of_lt level ((hasLine_iff s line).1 hline)
  cases hdir : (s.line line.toNat).dir with
  | input => exact replies_invalidState (hexec.trans (if_neg (by simp [hdir]))) hline hdir
  | output => exact replies_ok (hexec.trans (if_pos hdir)) hline (by simp [WrongDirection, hdir])

/-- So does a legal DL_READ, the other way round (R133). -/
theorem replies_dlRead {line : Byte} (hline : lineLegal s.cfg line = true) : Replies (.dlRead line) s := by
  have hexec := exec_dlRead_of_lt ((hasLine_iff s line).1 hline)
  cases hdir : (s.line line.toNat).dir with
  | input => exact replies_ok (hexec.trans (if_pos hdir)) hline (by simp [WrongDirection, hdir])
  | output => exact replies_invalidState (hexec.trans (if_neg (by simp [hdir]))) hline hdir

/-- PX_SET answers `OK` on either side of `px_n` (R202). -/
theorem replies_pxSet (index : Word) (r g b : Byte) : Replies (.pxSet index r g b) s := by
  have hexec := exec_pxSet index r g b s
  by_cases hindex : index.toNat < s.px.n.toNat
  · exact replies_ok (hexec.trans (if_pos hindex)) rfl id
  · exact replies_ok (hexec.trans (if_neg hindex)) rfl id

/-- PX_WRITE replies by the direction of line 1, which exists where it is an output (R208). -/
theorem replies_pxWrite : Replies .pxWrite s := by
  cases hdir : (s.line 1).dir with
  | input => exact replies_invalidState (exec_pxWrite_of_input hdir) rfl hdir
  | output =>
    exact replies_ok (exec_pxWrite_of_output hdir (lt_of_dir_output hdir)) rfl (by simp [WrongDirection, hdir])

/-- A command with legal operands and no direction to find wrong does its work and answers `OK`. -/
theorem replies_of_wellFormed (hlegal : i.wellFormed s.cfg = true) : Replies i s := by
  cases i with
  | dlSetDir line dir => exact replies_ok (exec_dlSetDir_of_lt dir ((hasLine_iff s line).1 hlegal)) hlegal id
  | dlSetPull line pull => exact replies_ok (exec_dlSetPull_of_lt pull ((hasLine_iff s line).1 hlegal)) hlegal id
  | dlWrite line level => exact replies_dlWrite level hlegal
  | dlRead line => exact replies_dlRead hlegal
  | owWriteByte byte => exact replies_ok (exec_owWriteByte byte s) hlegal id
  | owReadByte => exact replies_ok (exec_owReadByte s) hlegal id
  | pxInit | maInit => exact replies_ok (if_pos hlegal) hlegal id
  | pxSet index r g b => exact replies_pxSet index r g b
  | pxWrite => exact replies_pxWrite
  | _ => exact replies_ok rfl hlegal id

end Legal

/-- Every command replies, in every state. -/
theorem exec_replies (i : Instr) (s : State) : Replies i s := by
  cases hlegal : i.wellFormed s.cfg with
  | false => exact ⟨_, exec_of_not_wellFormed hlegal, .illegal hlegal⟩
  | true => exact replies_of_wellFormed hlegal

/-- Settles O50: each of the three replies has its own code and its own condition, and the conditions exclude each
other. -/
theorem everyCommandAnswersWithItsStatus : Obligations.EveryCommandAnswersWithItsStatus := by
  intro i s
  obtain ⟨t, hexec, hreply⟩ := exec_replies i s
  rw [← wrongDirection_iff]
  refine ⟨t, hexec, ?_⟩
  cases hreply with
  | ok data t hlegal hdir => simp [hlegal, hdir]
  | invalidState hlegal hdir => simp [Exception.status, Status.code, hlegal, hdir]
  | illegal hillegal => simp [Exception.status, Status.code, hillegal]

/-- The codes of the two exceptions (R280). -/
theorem exception_code (e : Exception) : e.status.code = if e = .invalidState then 1 else 2 := by
  cases e with
  | invalidState => rfl
  | illegal => rfl

/-- Settles O51: an exception is one write of the port, and a reply that is not `OK` is a `raise`. -/
theorem exceptionsChangeNothing : Obligations.ExceptionsChangeNothing := by
  constructor
  · intro e s
    rw [← exception_code]
    exact ⟨errResponse_raise e s, onlyPort_raise e s⟩
  · intro i s
    obtain ⟨t, hexec, hreply⟩ := exec_replies i s
    refine ⟨t, hexec, fun hstatus => ?_⟩
    cases hreply with
    | ok => exact absurd rfl hstatus
    | invalidState | illegal => exact ⟨_, rfl⟩

/-! ### The reset inside a command (R311) -/

/-- `s` once the events `es` have happened: their time has passed and the environment has answered their samples. -/
def afterEvents (es : List Event) (s : State) : State :=
  dropAnswers (sampleCount es) { s with log := s.log ++ es, time := s.time + logTime es }

@[simp] theorem afterEvents_nil (s : State) : afterEvents [] s = s := by
  simp [afterEvents, dropAnswers, sampleCount, logTime]

/-- A cut command is its first `k` events, then the reset; nothing else of the command remains. -/
theorem cutCommand_of_next {s u : State} {cmd arg : Word} {es : List Event} (hrun : runCommand cmd arg s = .next u)
    (hlog : u.log = s.log ++ es) (k : Nat) : cutCommand cmd arg k s = .next (hardReset (afterEvents (es.take k) s)) := by
  simp only [cutCommand, hrun, hlog, List.drop_left, afterEvents]

/-- Settles O9: a legal word is cut after the first events of its command; an illegal word only raises, with no event to
keep. -/
theorem resetCutsACommandShort : Obligations.ResetCutsACommandShort := by
  constructor
  · intro s u cmd arg k rest i es hphase hinputs hdecode hexec hlog
    have hrun : runCommand cmd arg { quiet s with inputs := rest } = .next u :=
      (runCommand_of_decode_ok (s := { quiet s with inputs := rest }) hdecode).trans hexec
    have hstep : step s = .next (hardReset (afterEvents (es.take k) { quiet s with inputs := rest })) :=
      (step_of_input hphase hinputs).trans (cutCommand_of_next hrun hlog k)
    exact ⟨_, hstep, rfl, rfl, rfl, rfl, rfl, rfl, line_of_lines_replicate (hardReset_lines _), rfl⟩
  · intro s cmd arg k rest e hphase hinputs hdecode
    have hcut := cutCommand_of_next (s := { quiet s with inputs := rest }) (es := [])
      (runCommand_of_decode_error hdecode) (List.append_nil _).symm k
    rw [List.take_nil, afterEvents_nil] at hcut
    exact (step_of_input hphase hinputs).trans hcut

end Sys2Proof.Machine
end
